-- ==== Sys2Proof/Word.lean ====
section
/-! DEFINITION. The machine's word types (00_scope.md R5, R7): bytes, 16-bit words, 12-bit addresses, register numbers,
key sets and rates. All values are unsigned; the only widening is zero-extension. -/

namespace Sys2Proof

/-- An 8-bit value: a register, a timer, a memory cell (R5). -/
abbrev Byte := BitVec 8

/-- A 16-bit value: an instruction word, `I`, `pc`, a return address (R5). -/
abbrev Word := BitVec 16

/-- The 12-bit immediate address `NNN = W[11:0]` (R7, R91). -/
abbrev Addr12 := BitVec 12

/-- A general register number, 0 to 15 (R21; R102 lets a model use a 16-valued type). -/
abbrev RegIdx := Fin 16

/-- A subset of the sixteen abstract keys as a 16-bit mask, bit `k` set when key `k` is in it (R32). -/
abbrev KeySet := BitVec 16

/-- The argument of `RunProgram`, an unsigned integer of `IPS_WIDTH = 32` bits (R6, R35). -/
abbrev Rate := BitVec 32

/-- Zero-extension of a byte to a word (R7 `zext_16`). -/
def Byte.zext (b : Byte) : Word := b.setWidth 16

/-- Zero-extension of a 12-bit address to a word (R93 `zext_16(NNN)`). -/
def Addr12.zext (a : Addr12) : Word := a.setWidth 16

end Sys2Proof
end

