-- ==== Sys2Proof/Config.lean ====
section
/-! DEFINITION. What one implementation fixes (00_scope.md R5, R6), and the free values. A constant declared `opaque`
has no body, so no proof can see its value: every theorem holds for every admissible one. -/

namespace Sys2Proof.Config

/-- `MEM_SIZE` (R5). -/
abbrev memSize : Nat := 4096

/-- `LOAD_OFFSET` (R5). -/
abbrev loadOffset : Nat := 0x200

/-- `MAX_PROGRAM = MEM_SIZE - LOAD_OFFSET` (R5). -/
abbrev maxProgram : Nat := memSize - loadOffset

/-- `FB_W` (R5). -/
abbrev fbWidth : Nat := 64

/-- `FB_H` (R5). -/
abbrev fbHeight : Nat := 32

/-- `GLYPH_BYTES` (R5). -/
abbrev glyphBytes : Nat := 5

/-- `FONT_GLYPHS * GLYPH_BYTES`, the 80 bytes of the font (R27). -/
abbrev fontBytes : Nat := 80

/-- `FONT_BASE`, OPEN (R6, R28, D4): any address with `FONT_BASE + 80 <= 0x200`, that is 0 to 432.
Log entry 2. -/
opaque fontBase : Fin 433

/-- The two admissible values of `SYS_BEHAVIOUR` (R122, D2). -/
inductive SysBehaviour where
  | unknownInstruction
  | noOp
deriving DecidableEq, Repr, Inhabited

/-- `SYS_BEHAVIOUR`, OPEN (R6, R122, D2): what a word `0NNN` other than `00E0` and `00EE` does. Log entry 4. -/
opaque sysBehaviour : SysBehaviour

/-- The free value `draw_byte()` of `RND` (R11, R163, D30), one for each number of the draw counter. Log entry 5. -/
opaque drawnByte : Nat → Byte

/-- The free value behind `choose(R)` of the key wait (R11, R183, D29): a number that selects a member of the released
set, one for each number of the draw counter. Log entry 6. -/
opaque chosenIndex : Nat → Nat

end Sys2Proof.Config
end

