-- ==== Sys2Proof/Syntax.lean ====
section
/-! DEFINITION. The 35 instructions of spec/opcode_table.json (30_encoding.md R95), one constructor per row, in the
table's order. Every field has the width the encoding gives it: `x`, `y` 4-bit register numbers, `nn` an 8-bit
immediate, `nnn` a 12-bit address, `n` a 4-bit row count (R91). -/

namespace Sys2Proof

/-- The instruction set. Each docstring gives the pattern of R95 and the rule of the instruction. -/
inductive Instr where
  /-- `CLS`, `00E0` (R120). -/
  | cls
  /-- `RET`, `00EE` (R121). -/
  | ret
  /-- `SYS NNN`, `0NNN` other than `00E0`, `00EE` (R122). -/
  | sys (nnn : Addr12)
  /-- `JP NNN`, `1NNN` (R123). -/
  | jp (nnn : Addr12)
  /-- `CALL NNN`, `2NNN` (R124). -/
  | call (nnn : Addr12)
  /-- `SE Vx, NN`, `3XNN` (R125). -/
  | seImm (x : RegIdx) (nn : Byte)
  /-- `SNE Vx, NN`, `4XNN` (R126). -/
  | sneImm (x : RegIdx) (nn : Byte)
  /-- `SE Vx, Vy`, `5XY0` (R127). -/
  | seReg (x y : RegIdx)
  /-- `LD Vx, NN`, `6XNN` (R140). -/
  | ldImm (x : RegIdx) (nn : Byte)
  /-- `ADD Vx, NN`, `7XNN` (R141). -/
  | addImm (x : RegIdx) (nn : Byte)
  /-- `LD Vx, Vy`, `8XY0` (R142). -/
  | ldReg (x y : RegIdx)
  /-- `OR Vx, Vy`, `8XY1` (R143). -/
  | orReg (x y : RegIdx)
  /-- `AND Vx, Vy`, `8XY2` (R144). -/
  | andReg (x y : RegIdx)
  /-- `XOR Vx, Vy`, `8XY3` (R145). -/
  | xorReg (x y : RegIdx)
  /-- `ADD Vx, Vy`, `8XY4` (R146). -/
  | addReg (x y : RegIdx)
  /-- `SUB Vx, Vy`, `8XY5` (R147). -/
  | sub (x y : RegIdx)
  /-- `SHR Vx, Vy`, `8XY6` (R148). -/
  | shr (x y : RegIdx)
  /-- `SUBN Vx, Vy`, `8XY7` (R149). -/
  | subn (x y : RegIdx)
  /-- `SHL Vx, Vy`, `8XYE` (R150). -/
  | shl (x y : RegIdx)
  /-- `SNE Vx, Vy`, `9XY0` (R128). -/
  | sneReg (x y : RegIdx)
  /-- `LD I, NNN`, `ANNN` (R160). -/
  | ldI (nnn : Addr12)
  /-- `JP V0, NNN`, `BNNN` (R161). -/
  | jpV0 (nnn : Addr12)
  /-- `RND Vx, NN`, `CXNN` (R163). -/
  | rnd (x : RegIdx) (nn : Byte)
  /-- `DRW Vx, Vy, N`, `DXYN` (R170). -/
  | drw (x y : RegIdx) (n : Fin 16)
  /-- `SKP Vx`, `EX9E` (R180). -/
  | skp (x : RegIdx)
  /-- `SKNP Vx`, `EXA1` (R181). -/
  | sknp (x : RegIdx)
  /-- `LD Vx, DT`, `FX07` (R190). -/
  | ldVxDt (x : RegIdx)
  /-- `LD Vx, K`, `FX0A` (R183). -/
  | ldVxK (x : RegIdx)
  /-- `LD DT, Vx`, `FX15` (R191). -/
  | ldDtVx (x : RegIdx)
  /-- `LD ST, Vx`, `FX18` (R192). -/
  | ldStVx (x : RegIdx)
  /-- `ADD I, Vx`, `FX1E` (R193). -/
  | addI (x : RegIdx)
  /-- `LD F, Vx`, `FX29` (R194). -/
  | ldF (x : RegIdx)
  /-- `LD B, Vx`, `FX33` (R195). -/
  | ldB (x : RegIdx)
  /-- `LD [I], Vx`, `FX55` (R196). -/
  | stRegs (x : RegIdx)
  /-- `LD Vx, [I]`, `FX65` (R197). -/
  | ldRegs (x : RegIdx)
deriving DecidableEq, Repr

end Sys2Proof
end

