-- ==== Sys2Proof/Decode.lean ====
section
/-! DEFINITION. The decoder, total on every word and every byte list (30_encoding.md R90 to R96), and the encoder,
written from the same table. Instructions are two bytes, the high byte at the lower address (R66, R91). -/

namespace Sys2Proof

/-- Why bytes are no instruction, by name. -/
inductive DecodeError where
  /-- One of the 17,488 words of R96 (or, unreachably, a first nibble above 15). -/
  | unknownInstruction (w : Word)
  /-- Fewer than the two bytes of an instruction (R91). -/
  | truncated
deriving DecidableEq, Repr

/-- The big-endian word of two bytes, the one at the lower address first (R65, R66). -/
def wordOfBytes (hi lo : Byte) : Word := BitVec.ofNat 16 (hi.toNat * 256 + lo.toNat)

/-- The byte at the lower address, `W[15:8]` (R66). -/
def Word.hiByte (w : Word) : Byte := BitVec.ofNat 8 (w.toNat / 256)

/-- The byte at the higher address, `W[7:0]` (R66). -/
def Word.loByte (w : Word) : Byte := BitVec.ofNat 8 w.toNat

/-! ### Fields (R91) -/

/-- `OP = W[15:12]`. -/
def Word.fieldOp (w : Word) : Nat := w.toNat / 4096

/-- `X = W[11:8]`. -/
def Word.fieldX (w : Word) : RegIdx := ⟨w.toNat / 256 % 16, Nat.mod_lt _ (by decide)⟩

/-- `Y = W[7:4]`. -/
def Word.fieldY (w : Word) : RegIdx := ⟨w.toNat / 16 % 16, Nat.mod_lt _ (by decide)⟩

/-- `N = W[3:0]`. -/
def Word.fieldN (w : Word) : Fin 16 := ⟨w.toNat % 16, Nat.mod_lt _ (by decide)⟩

/-- `NN = W[7:0]`. -/
def Word.fieldNN (w : Word) : Byte := BitVec.ofNat 8 w.toNat

/-- `NNN = W[11:0]`. -/
def Word.fieldNNN (w : Word) : Addr12 := BitVec.ofNat 12 w.toNat

/-! ### Decoding (R94, R95) -/

/-- The family `8XYn`: the whole low nibble selects (R94, D28). -/
def decodeAlu (w : Word) : Except DecodeError Instr :=
  match w.fieldN.val with
  | 0x0 => .ok (.ldReg w.fieldX w.fieldY)
  | 0x1 => .ok (.orReg w.fieldX w.fieldY)
  | 0x2 => .ok (.andReg w.fieldX w.fieldY)
  | 0x3 => .ok (.xorReg w.fieldX w.fieldY)
  | 0x4 => .ok (.addReg w.fieldX w.fieldY)
  | 0x5 => .ok (.sub w.fieldX w.fieldY)
  | 0x6 => .ok (.shr w.fieldX w.fieldY)
  | 0x7 => .ok (.subn w.fieldX w.fieldY)
  | 0xE => .ok (.shl w.fieldX w.fieldY)
  | _ => .error (.unknownInstruction w)

/-- The family `EXnn`: the whole low byte selects (R94, D28). -/
def decodeKey (w : Word) : Except DecodeError Instr :=
  match w.fieldNN.toNat with
  | 0x9E => .ok (.skp w.fieldX)
  | 0xA1 => .ok (.sknp w.fieldX)
  | _ => .error (.unknownInstruction w)

/-- The family `FXnn`: the whole low byte selects (R94, D28). -/
def decodeMisc (w : Word) : Except DecodeError Instr :=
  match w.fieldNN.toNat with
  | 0x07 => .ok (.ldVxDt w.fieldX)
  | 0x0A => .ok (.ldVxK w.fieldX)
  | 0x15 => .ok (.ldDtVx w.fieldX)
  | 0x18 => .ok (.ldStVx w.fieldX)
  | 0x1E => .ok (.addI w.fieldX)
  | 0x29 => .ok (.ldF w.fieldX)
  | 0x33 => .ok (.ldB w.fieldX)
  | 0x55 => .ok (.stRegs w.fieldX)
  | 0x65 => .ok (.ldRegs w.fieldX)
  | _ => .error (.unknownInstruction w)

/-- The opcode map of R95 by first nibble; the last arm is dead, since a first nibble is at most 15. -/
def decodeByOp (op : Nat) (w : Word) : Except DecodeError Instr :=
  match op with
  | 0x0 => .ok (.sys w.fieldNNN)
  | 0x1 => .ok (.jp w.fieldNNN)
  | 0x2 => .ok (.call w.fieldNNN)
  | 0x3 => .ok (.seImm w.fieldX w.fieldNN)
  | 0x4 => .ok (.sneImm w.fieldX w.fieldNN)
  | 0x5 => if w.fieldN.val = 0 then .ok (.seReg w.fieldX w.fieldY) else .error (.unknownInstruction w)
  | 0x6 => .ok (.ldImm w.fieldX w.fieldNN)
  | 0x7 => .ok (.addImm w.fieldX w.fieldNN)
  | 0x8 => decodeAlu w
  | 0x9 => if w.fieldN.val = 0 then .ok (.sneReg w.fieldX w.fieldY) else .error (.unknownInstruction w)
  | 0xA => .ok (.ldI w.fieldNNN)
  | 0xB => .ok (.jpV0 w.fieldNNN)
  | 0xC => .ok (.rnd w.fieldX w.fieldNN)
  | 0xD => .ok (.drw w.fieldX w.fieldY w.fieldN)
  | 0xE => decodeKey w
  | 0xF => decodeMisc w
  | _ => .error (.unknownInstruction w)

/-- The procedure of R94: the two fixed words first, then the first nibble. -/
def decodeWord (w : Word) : Except DecodeError Instr :=
  if w = 0x00E0#16 then .ok .cls
  else if w = 0x00EE#16 then .ok .ret
  else decodeByOp w.fieldOp w

/-- The instruction at the head of a byte list and the bytes after it. -/
def decode (bytes : List Byte) : Except DecodeError (Instr × List Byte) :=
  match bytes with
  | hi :: lo :: rest =>
    match decodeWord (wordOfBytes hi lo) with
    | .ok i => .ok (i, rest)
    | .error e => .error e
  | [] => .error .truncated
  | [_] => .error .truncated

/-! ### Encoding (R92, R95) -/

/-- Format `NNN`. -/
def formatNNN (op : Nat) (nnn : Addr12) : Word := BitVec.ofNat 16 (op * 4096 + nnn.toNat)

/-- Formats `XNN` and `Xnn`. -/
def formatXNN (op : Nat) (x : RegIdx) (nn : Byte) : Word :=
  BitVec.ofNat 16 (op * 4096 + x.val * 256 + nn.toNat)

/-- Formats `XYN` and `XYn`. -/
def formatXYN (op : Nat) (x y : RegIdx) (n : Fin 16) : Word :=
  BitVec.ofNat 16 (op * 4096 + x.val * 256 + y.val * 16 + n.val)

/-- The word of an instruction, from the table of R95. -/
def encode (i : Instr) : Word :=
  match i with
  | .cls => 0x00E0#16
  | .ret => 0x00EE#16
  | .sys nnn => formatNNN 0x0 nnn
  | .jp nnn => formatNNN 0x1 nnn
  | .call nnn => formatNNN 0x2 nnn
  | .seImm x nn => formatXNN 0x3 x nn
  | .sneImm x nn => formatXNN 0x4 x nn
  | .seReg x y => formatXYN 0x5 x y 0x0
  | .ldImm x nn => formatXNN 0x6 x nn
  | .addImm x nn => formatXNN 0x7 x nn
  | .ldReg x y => formatXYN 0x8 x y 0x0
  | .orReg x y => formatXYN 0x8 x y 0x1
  | .andReg x y => formatXYN 0x8 x y 0x2
  | .xorReg x y => formatXYN 0x8 x y 0x3
  | .addReg x y => formatXYN 0x8 x y 0x4
  | .sub x y => formatXYN 0x8 x y 0x5
  | .shr x y => formatXYN 0x8 x y 0x6
  | .subn x y => formatXYN 0x8 x y 0x7
  | .shl x y => formatXYN 0x8 x y 0xE
  | .sneReg x y => formatXYN 0x9 x y 0x0
  | .ldI nnn => formatNNN 0xA nnn
  | .jpV0 nnn => formatNNN 0xB nnn
  | .rnd x nn => formatXNN 0xC x nn
  | .drw x y n => formatXYN 0xD x y n
  | .skp x => formatXNN 0xE x 0x9E#8
  | .sknp x => formatXNN 0xE x 0xA1#8
  | .ldVxDt x => formatXNN 0xF x 0x07#8
  | .ldVxK x => formatXNN 0xF x 0x0A#8
  | .ldDtVx x => formatXNN 0xF x 0x15#8
  | .ldStVx x => formatXNN 0xF x 0x18#8
  | .addI x => formatXNN 0xF x 0x1E#8
  | .ldF x => formatXNN 0xF x 0x29#8
  | .ldB x => formatXNN 0xF x 0x33#8
  | .stRegs x => formatXNN 0xF x 0x55#8
  | .ldRegs x => formatXNN 0xF x 0x65#8

/-- The two bytes of an instruction as memory holds them (R66). -/
def encodeBytes (i : Instr) : List Byte := [(encode i).hiByte, (encode i).loByte]

/-- The word of a table row: `nbits` bits of `w`, numbered as the table numbers them, the bits above them 0. Every row
of this table has 16 bits, one word. -/
def tableWord (nbits w : Nat) : Word := BitVec.ofNat 16 (w % 2 ^ nbits)

/-- The instruction the decoder reads from a table word laid out as memory holds it, high byte first. -/
def decodeTableWord (nbits w : Nat) : Option Instr :=
  match decode [(tableWord nbits w).hiByte, (tableWord nbits w).loByte] with
  | .ok (i, _) => some i
  | .error _ => none

end Sys2Proof
end

