-- ==== Sys2Proof/Machine/State.lean ====
section
/-! DEFINITION. The machine's state as plain data: the Virtual Machine State (10_state.md R20 to R34), the Execution
Host's own state (R33, R35 to R38), two fields of the model (the engine's result wire and the draw counter), the reasons
a step can stop, and the state at power-on (R41, R290). -/

namespace Sys2Proof.Machine

/-- The 4096-byte memory `Mem` (R26) as the cells that differ from what the load reset leaves
(`Memory.resetByte`, Machine/Memory.lean), addresses strictly rising (`Memory.wf`). -/
abbrev Memory := List Host.Cell

/-- The 64 by 32 boolean grid, 32 rows of 64 pixels, row-major (R30); `true` is `on`. -/
abbrev Framebuffer := Vector (Vector Bool 64) 32

/-- The four execution failures (R250 to R254; codes R268: E1 to E4 in this order). -/
inductive FailureKind where
  /-- E1, raised by `RET` on an empty stack (R251). -/
  | stackUnderflow
  /-- E2, defined and raised by no instruction: every register number has four bits (R102, R252). -/
  | registerIndexOutOfRange
  /-- E3, raised by the fetch, `DRW`, `LD B`, the bulk store and the bulk load (R253). -/
  | memoryOutOfBounds
  /-- E4, raised for the words of R96, and for `SYS` when `SYS_BEHAVIOUR = unknown_instruction` (R254). -/
  | unknownInstruction
deriving DecidableEq, Repr

/-- What an execution failure reports: its kind, the address of the failing instruction, its word (R256). -/
structure Failure where
  kind : FailureKind
  addr : Word
  word : Word
deriving DecidableEq, Repr

/-- The loading failure (R255; code L1, R268). -/
inductive LoadError where
  | programTooLarge
deriving DecidableEq, Repr

/-- The five compatibility switches `Q` (R33). The fifth is held and read by nothing (C1, D7). -/
structure Quirks where
  shift : Bool
  jump : Bool
  addi : Bool
  mem : Bool
  q4 : Bool
deriving DecidableEq, Repr

/-- The blocking state of the key wait (R34, R184). -/
inductive WaitState where
  | idle
  | awaiting (snapshot : KeySet)
deriving DecidableEq, Repr

/-- The run state of the host (R35, R210). -/
inductive RunState where
  | stopped
  | running (rate : Rate)
deriving DecidableEq, Repr

/-- The play/pause level of the Audio Trigger (R38). -/
inductive AudioLevel where
  | play
  | pause
deriving DecidableEq, Repr

/-- The eight commands of the client (R212 to R219). -/
inductive Command where
  | loadSettings (quirks : Quirks)
  | loadProgram (bytes : List Byte)
  | step
  | runProgram (rate : Rate)
  | stop
  | queryDisplay
  | queryState
  | sendKeys (keys : KeySet)
deriving DecidableEq, Repr

/-- One element of the inbound queue: a client command, or a tick of the Timer Source (R15, R220). -/
inductive Message where
  | command (c : Command)
  | tick
deriving DecidableEq, Repr

/-- One element of the outbound queue (R213, R214, R217, R218, R223). -/
inductive Response where
  /-- `LoadResult(Ok)` is `none`. -/
  | loadResult (error : Option LoadError)
  /-- `StepResult(Ok)` is `none`. -/
  | stepResult (failure : Option Failure)
  /-- `Display(grid)`. -/
  | display (grid : Framebuffer)
  /-- `State(Running)` is `true`; the rate is not reported (R218). -/
  | runStatus (running : Bool)
  /-- `RunError(kind, addr, word)`. -/
  | runError (failure : Failure)
deriving DecidableEq, Repr

/-- The whole machine. -/
structure State where
  /-- `x[0]` to `x[15]`; `x[15]` doubles as the flag register `VF` (R21, R22). -/
  x : Vector Byte 16
  /-- The index register `I` (R23). -/
  i : Word
  /-- The program counter (R24). -/
  pc : Word
  /-- `Mem` (R26). -/
  mem : Memory
  /-- The return stack, the last pushed value first; unbounded (R25, D6). -/
  stack : List Word
  /-- The framebuffer (R30). -/
  fb : Framebuffer
  /-- The delay timer `DT` (R31). -/
  dt : Byte
  /-- The sound timer `ST` (R31). -/
  st : Byte
  /-- The blocking state (R34). -/
  wait : WaitState
  /-- The pressed-key set (R32). -/
  keys : KeySet
  /-- The quirk settings `Q` (R33). -/
  q : Quirks
  /-- The run state (R35). -/
  run : RunState
  /-- The instruction budget still owed for the current tick (R36). -/
  budget : Nat
  /-- The inbound queue, oldest message first (R37). -/
  inq : List Message
  /-- Whether the inbound queue is open; closing it stops the host (R37, R228). -/
  inqOpen : Bool
  /-- The outbound queue, oldest response first (R37). -/
  outq : List Response
  /-- The audio level (R38). -/
  audio : AudioLevel
  /-- THE MODEL'S OWN: the value a step of the engine returns to the worker, `Ok` as `none` (R10). The worker consumes
  it within the same step, so it is `none` between steps. Log entry 8. -/
  failure : Option Failure
  /-- THE MODEL'S OWN: how many free values have been drawn (R11). Log entry 7. -/
  draws : Nat
deriving DecidableEq, Repr

/-- The reasons the machine stops. No instruction raises one: every failure of R250 is a next state. -/
inductive Fault where
  /-- Raised by the worker when the inbound queue is closed and empty and no message is in flight: it exits and the
  Virtual Machine State is destroyed (R211, R228). Safe: nothing is claimed after it. -/
  | workerExited
deriving DecidableEq, Repr

/-- The points at which the model gives no meaning. -/
inductive Refusal where
  /-- An instruction with no meaning yet; no arm of `exec` uses it. Safe. -/
  | notModelled (mnemonic : String)
  /-- Raised by the worker when the inbound queue is closed while messages still wait in it: whether they are handled is
  not stated and no claim is made (R228, D34). Safe. -/
  | queuedAtClose
deriving DecidableEq, Repr

/-- All five switches false (R33, D8). -/
def Quirks.allFalse : Quirks := { shift := false, jump := false, addi := false, mem := false, q4 := false }

/-- The blank screen. -/
def Framebuffer.blank : Framebuffer := Vector.replicate 32 (Vector.replicate 64 false)

/-- The machine at power-on, before any message (R41, R290): the Virtual Machine State as after a load reset with an
empty program, no quirk, `Stopped`, empty open queues, `pause`. Log entry 10 marks the values the source does not give. -/
def State.reset : State where
  x := Vector.replicate 16 0#8
  i := 0#16
  pc := 0x200#16
  mem := []
  stack := []
  fb := Framebuffer.blank
  dt := 0#8
  st := 0#8
  wait := .idle
  keys := 0#16
  q := Quirks.allFalse
  run := .stopped
  budget := 0
  inq := []
  inqOpen := true
  outq := []
  audio := .pause
  failure := none
  draws := 0

end Sys2Proof.Machine
end

