-- ==== Sys2Proof/Machine/Flags.lean ====
section
/-! DEFINITION. Every flag computation (41_load_alu.md R151, R152): the value each flag-setting instruction writes to
`x[15]`. Results are computed exactly on naturals and compared. -/

namespace Sys2Proof.Machine

/-- A flag as the byte `VF` holds. -/
def flagByte (b : Bool) : Byte := if b then 1#8 else 0#8

/-- `ADD Vx, Vy`: 1 exactly when the unsigned sum exceeds 255 (R146). -/
def carryOut (a b : Byte) : Bool := decide (255 < a.toNat + b.toNat)

/-- `SUB`, `SUBN`: 1 exactly when no borrow is needed, minuend at least subtrahend (R147, R149). -/
def noBorrow (minuend subtrahend : Byte) : Bool := decide (subtrahend.toNat ≤ minuend.toNat)

/-- `SHR`: the bit shifted out, bit 0 of the source (R148). -/
def shiftedOutRight (s : Byte) : Bool := s.getLsbD 0

/-- `SHL`: the bit shifted out, bit 7 of the source (R150). -/
def shiftedOutLeft (s : Byte) : Bool := s.getLsbD 7

/-- `ADD I, Vx` under `Q.addi`: the new `I` would address beyond memory (R193); a range check, not a carry. -/
def beyondMemory (i : Word) : Bool := decide (Config.memSize ≤ i.toNat)

end Sys2Proof.Machine
end

