-- ==== Sys2Proof/Machine/Memory.lean ====
section
/-! DEFINITION. The 4096-byte memory (20_memory.md R60 to R71): what a byte holds after the load reset (font and zeros),
reading and writing one byte, the canonical form, byte sequences, and a program image. -/

namespace Sys2Proof.Machine

/-- `FONT_DATA`: the default glyph table of R29, one glyph of five bytes a line. Log entry 3. -/
def fontData : List Byte :=
  [0xF0#8, 0x90#8, 0x90#8, 0x90#8, 0xF0#8] ++
  [0x20#8, 0x60#8, 0x20#8, 0x20#8, 0x70#8] ++
  [0xF0#8, 0x10#8, 0xF0#8, 0x80#8, 0xF0#8] ++
  [0xF0#8, 0x10#8, 0xF0#8, 0x10#8, 0xF0#8] ++
  [0x90#8, 0x90#8, 0xF0#8, 0x10#8, 0x10#8] ++
  [0xF0#8, 0x80#8, 0xF0#8, 0x10#8, 0xF0#8] ++
  [0xF0#8, 0x80#8, 0xF0#8, 0x90#8, 0xF0#8] ++
  [0xF0#8, 0x10#8, 0x20#8, 0x40#8, 0x40#8] ++
  [0xF0#8, 0x90#8, 0xF0#8, 0x90#8, 0xF0#8] ++
  [0xF0#8, 0x90#8, 0xF0#8, 0x10#8, 0xF0#8] ++
  [0xF0#8, 0x90#8, 0xF0#8, 0x90#8, 0x90#8] ++
  [0xE0#8, 0x90#8, 0xE0#8, 0x90#8, 0xE0#8] ++
  [0xF0#8, 0x80#8, 0x80#8, 0x80#8, 0xF0#8] ++
  [0xE0#8, 0x90#8, 0x90#8, 0x90#8, 0xE0#8] ++
  [0xF0#8, 0x80#8, 0xF0#8, 0x80#8, 0xF0#8] ++
  [0xF0#8, 0x80#8, 0xF0#8, 0x80#8, 0x80#8]

/-- `FONT_BASE` as a number (R28). -/
def fontBase : Nat := Config.fontBase.val

/-- What byte `a` holds after a load reset, before the image is copied (R27, R291): the font at
`FONT_BASE .. FONT_BASE + 79`, which lies below `0x200`, and zero elsewhere. It is what an address that a `Memory` does
not list reads as. -/
def resetByte (a : Nat) : Byte :=
  if Config.loadOffset ≤ a then 0#8
  else if fontBase ≤ a ∧ a < fontBase + Config.fontBytes then fontData.getD (a - fontBase) 0#8
  else 0#8

/-- The byte at address `a` (R62). -/
def Memory.read (m : Memory) (a : Nat) : Byte :=
  match m with
  | [] => resetByte a
  | (c, v) :: rest => if a = c then v else Memory.read rest a

/-- Byte `a` replaced by `b`, keeping the canonical form (R63). -/
def Memory.write (m : Memory) (a : Nat) (b : Byte) : Memory :=
  match m with
  | [] => if b = resetByte a then [] else [(a, b)]
  | (c, v) :: rest =>
    if a < c then if b = resetByte a then (c, v) :: rest else (a, b) :: (c, v) :: rest
    else if a = c then if b = resetByte a then rest else (a, b) :: rest
    else (c, v) :: Memory.write rest a b

/-- Every cell lies at or above `low` and inside the memory, addresses strictly rise, and no cell holds what an unlisted
address reads as. -/
def Memory.wfFrom (low : Nat) (m : Memory) : Bool :=
  match m with
  | [] => true
  | (c, v) :: rest => decide (low ≤ c) && decide (c < Config.memSize) && (v != resetByte c) && Memory.wfFrom (c + 1) rest

/-- The canonical form: equal memories are equal lists. -/
def Memory.wf (m : Memory) : Bool := Memory.wfFrom 0 m

/-- The bytes `bs` written at `a`, `a + 1`, … in that order (R68). -/
def Memory.writeBytes (m : Memory) (a : Nat) (bs : List Byte) : Memory :=
  match bs with
  | [] => m
  | b :: rest => Memory.writeBytes (m.write a b) (a + 1) rest

/-- The `n` bytes at `a`, `a + 1`, … (R68). -/
def Memory.readBytes (m : Memory) (a n : Nat) : List Byte :=
  match n with
  | 0 => []
  | n + 1 => m.read a :: Memory.readBytes m (a + 1) n

/-- The memory a load reset leaves: every byte zero, then the font (R291). -/
def Memory.cleared : Memory := []

/-- The memory after a load reset and the copy of `bytes` to `a`, `a + 1`, … (R213); it is
`Memory.cleared.writeBytes a bytes`, built in one pass (`Memory.image_eq_writeBytes`). -/
def Memory.image (a : Nat) (bytes : List Byte) : Memory :=
  match bytes with
  | [] => Memory.cleared
  | b :: rest => if b = resetByte a then Memory.image (a + 1) rest else (a, b) :: Memory.image (a + 1) rest

/-- The range check of R64 and R69: the `n` bytes from `a` all lie below 4096; an empty range always does. Addresses are
natural numbers and never wrap (D15). -/
def inRange (a n : Nat) : Bool := n == 0 || decide (a + n ≤ Config.memSize)

/-- `MemRead(addr, 1)`; `none` stands for the raised `MemoryOutOfBounds` (R62). -/
def Memory.read1 (m : Memory) (a : Nat) : Option Byte :=
  if inRange a 1 then some (m.read a) else none

/-- `MemRead(addr, 2)`, big-endian; used by the fetch only (R62, R65). -/
def Memory.read2 (m : Memory) (a : Nat) : Option Word :=
  if inRange a 2 then some (wordOfBytes (m.read a) (m.read (a + 1))) else none

/-- `MemWrite(addr, 1, v)` (R63). -/
def Memory.write1 (m : Memory) (a : Nat) (b : Byte) : Option Memory :=
  if inRange a 1 then some (m.write a b) else none

end Sys2Proof.Machine
end

