-- ==== Sys2Proof/Machine/Screen.lean ====
section
/-! DEFINITION. The framebuffer (10_state.md R30, 20_memory.md R70) and the drawing of a sprite on it (43_draw.md R170
to R173). Pixels are reached by row and column; a read outside the grid answers `off`. -/

namespace Sys2Proof.Machine

/-- `fbget(r, c)`: the pixel, or `off` outside the 32 by 64 grid (R70). -/
def Framebuffer.get (fb : Framebuffer) (r c : Nat) : Bool :=
  if h : r < 32 ∧ c < 64 then (fb[r]'h.1)[c]'h.2 else false

/-- The pixel at row `r`, column `c` replaced by `v`; nothing outside the grid. -/
def Framebuffer.put (fb : Framebuffer) (r c : Nat) (v : Bool) : Framebuffer :=
  if h : r < 32 ∧ c < 64 then fb.set r ((fb[r]'h.1).set c v h.2) h.1 else fb

/-- A screen being drawn on, and whether some pixel of this draw went from on to off (R173). -/
structure Canvas where
  fb : Framebuffer
  hit : Bool
deriving DecidableEq, Repr

/-- A set sprite bit lands on row `r`, column `c`: outside the grid it is clipped, inside it inverts the pixel, and a
pixel that was on is a collision (R170, R172, R173). -/
def Canvas.plot (p : Canvas) (r c : Nat) : Canvas :=
  if r < 32 ∧ c < 64 then { fb := p.fb.put r c (!p.fb.get r c), hit := p.hit || p.fb.get r c } else p

/-- The sprite columns `j`, `j + 1`, … of one byte, `k` of them, on row `r` from column `c0`; column `j` is bit `7 - j`
(R171). -/
def Canvas.drawBits (p : Canvas) (r c0 : Nat) (b : Byte) (j k : Nat) : Canvas :=
  match k with
  | 0 => p
  | k + 1 => Canvas.drawBits (if b.getLsbD (7 - j) then p.plot r (c0 + j) else p) r c0 b (j + 1) k

/-- One sprite byte, eight pixels, on row `r` from column `c0` (R171). -/
def Canvas.drawByte (p : Canvas) (r c0 : Nat) (b : Byte) : Canvas := p.drawBits r c0 b 0 8

/-- The sprite bytes `bs`, one row each, from row `r0` and column `c0` downwards (R171). -/
def Canvas.drawRows (p : Canvas) (r0 c0 : Nat) (bs : List Byte) : Canvas :=
  match bs with
  | [] => p
  | b :: rest => Canvas.drawRows (p.drawByte r0 c0 b) (r0 + 1) c0 rest

/-- The column a draw starts at, `x[X] mod 64` (R172). -/
def startColumn (v : Byte) : Nat := v.toNat % Config.fbWidth

/-- The row a draw starts at, `x[Y] mod 32` (R172). -/
def startRow (v : Byte) : Nat := v.toNat % Config.fbHeight

/-- A whole draw: the flag is clear at its start (R173). -/
def drawSprite (fb : Framebuffer) (row col : Nat) (bs : List Byte) : Canvas :=
  Canvas.drawRows { fb := fb, hit := false } row col bs

end Sys2Proof.Machine
end

