-- ==== Sys2Proof/Machine/Ops.lean ====
section
/-! DEFINITION. The named operations over the state that every instruction and message uses: registers, `I`, `pc`,
stack, memory, the draws, and the failures: raising one in the engine (R10, R256) and taking it in the host (R214, R223,
R259). There is no return from a failure: nothing was saved and nothing is restored (R260). -/

namespace Sys2Proof.Machine

/-! ### One updater for each field an instruction writes -/

/-- `I <- v`; no range restriction (R23). -/
def State.setI (s : State) (v : Word) : State := { s with i := v }

/-- `pc <- v`; not checked when written (R130). -/
def State.setPc (s : State) (v : Word) : State := { s with pc := v }

/-- `Mem <- m`. -/
def State.setMem (s : State) (m : Memory) : State := { s with mem := m }

/-- `stack <- l`. -/
def State.setStack (s : State) (l : List Word) : State := { s with stack := l }

/-- `fb <- f`. -/
def State.setFb (s : State) (f : Framebuffer) : State := { s with fb := f }

/-- `DT <- v` (R191). -/
def State.setDt (s : State) (v : Byte) : State := { s with dt := v }

/-- `ST <- v` (R192). -/
def State.setSt (s : State) (v : Byte) : State := { s with st := v }

/-- `wait <- w` (R34). -/
def State.setWait (s : State) (w : WaitState) : State := { s with wait := w }

/-- The engine's result (R10). -/
def State.setFailure (s : State) (f : Option Failure) : State := { s with failure := f }

/-- One more free value has been drawn (R11). -/
def State.nextDraw (s : State) : State := { s with draws := s.draws + 1 }

/-- The registers replaced. -/
def State.setRegs (s : State) (v : Vector Byte 16) : State := { s with x := v }

/-! ### Registers (R21, R22) -/

/-- `x[r]`. -/
def State.reg (s : State) (r : RegIdx) : Byte := s.x[r.val]

/-- `x[r] <- v`. -/
def State.setReg (s : State) (r : RegIdx) (v : Byte) : State := s.setRegs (s.x.set r.val v)

/-- The flag register `VF`, register 15 (R22). -/
def vf : RegIdx := 15

/-- `VF <- b` as a flag (R22). -/
def State.setFlag (s : State) (b : Bool) : State := s.setReg vf (flagByte b)

/-- The result is written first and the flag last, so that the flag remains when the result register is `VF` (R12). -/
def State.setResultAndFlag (s : State) (r : RegIdx) (v : Byte) (b : Bool) : State := (s.setReg r v).setFlag b

/-- Registers `k`, `k + 1`, … replaced by `bs`, as far as there are registers. -/
def putRegs (v : Vector Byte 16) (k : Nat) (bs : List Byte) : Vector Byte 16 :=
  match bs with
  | [] => v
  | b :: rest => if h : k < 16 then putRegs (v.set k b h) (k + 1) rest else v

/-- `x[0]` to `x[last]` in order, the values a bulk store writes (R196). -/
def State.regsUpTo (s : State) (last : RegIdx) : List Byte := s.x.toList.take (last.val + 1)

/-! ### Control flow (R129, R130) -/

/-- A skip: `pc <- pc + 2` on the already advanced counter when `cond` holds (R129). -/
def State.skipIf (s : State) (cond : Bool) : State := if cond then s.setPc (s.pc + 2#16) else s

/-- The key wait's `pc <- pc - 2`, back to the instruction itself (R183). -/
def State.rewind (s : State) : State := s.setPc (s.pc - 2#16)

/-- `push(v)` (R8, R25). -/
def State.push (s : State) (v : Word) : State := s.setStack (v :: s.stack)

/-! ### Memory through the state -/

/-- The byte at address `a`. -/
def State.byteAt (s : State) (a : Nat) : Byte := s.mem.read a

/-- The bytes `bs` stored from address `a` on, the range having been checked (R69). -/
def State.store (s : State) (a : Nat) (bs : List Byte) : State := s.setMem (s.mem.writeBytes a bs)

/-! ### Free values (R11) -/

/-- `draw_byte()`: the free value for the current number of draws (R163). -/
def State.drawnByte (s : State) : Byte := Config.drawnByte s.draws

/-- The members of a key set in rising order. -/
def keyList (k : KeySet) : List RegIdx :=
  [0, 1, 2, 3, 4, 5, 6, 7, 8, 9, 10, 11, 12, 13, 14, 15].filter (fun j => k.getLsbD j.val)

/-- The member of `k` that the number `n` selects; every member is selected by some number (R183, D29). -/
def chooseKey (k : KeySet) (n : Nat) : RegIdx := (keyList k).getD (n % (keyList k).length) 0

/-- `choose(R)`: the free choice for the current number of draws (R183). -/
def State.chosenKey (s : State) (released : KeySet) : RegIdx := chooseKey released (Config.chosenIndex s.draws)

/-! ### Failures -/

/-- The engine's step ends in `Fail(kind, addr, word)`; nothing but the result wire is written (R10, R257). -/
def State.fail (s : State) (kind : FailureKind) (addr word : Word) : State :=
  s.setFailure (some { kind := kind, addr := addr, word := word })

/-- `raise K` inside instruction `i`: `pc` is already `pc0 + 2`, so the reported address is `pc - 2`, and the reported
word is the instruction's own (R10, R256). The advance is not undone (R257). -/
def State.raise (s : State) (kind : FailureKind) (i : Instr) : State := s.fail kind (s.pc - 2#16) (encode i)

/-- A response is appended to the outbound queue (R225). -/
def State.emit (s : State) (r : Response) : State := { s with outq := s.outq ++ [r] }

/-- The host takes a failure of a drained step: the budget is forfeited, the run stops, the error is emitted
(R223, R259). -/
def State.takeDrainFailure (s : State) (f : Failure) : State :=
  ({ s with budget := 0, run := .stopped } : State).emit (.runError f)

/-- The host takes the result of an explicit `Step`, failure or success: it is reported and nothing else changes
(R214, R259). -/
def State.reportStep (s : State) : State := (s.emit (.stepResult s.failure)).setFailure none

/-- The worker takes the result of one drained step: one unit of budget is spent, and a failure ends the drain
(R222, R223). -/
def State.accountDrained (s : State) : State :=
  let t : State := { s with budget := s.budget - 1, failure := none }
  match s.failure with
  | none => t
  | some f => t.takeDrainFailure f

end Sys2Proof.Machine
end

