-- ==== Sys2Proof/Machine/Operands.lean ====
section
/-! DEFINITION. Every operand form (30_encoding.md R93, 45_timer_index_memory.md R198): the source of a shift, the
register added by the indirect jump, the jump targets, the effective address, the sprite bytes, the glyph address, the
decimal digits, and the key predicate. -/

namespace Sys2Proof.Machine

/-- The operand of `SHR` and `SHL`: `x[Y]` under `Q.shift`, else `x[X]` (R148, R150). -/
def State.shiftSource (s : State) (x y : RegIdx) : Byte := if s.q.shift then s.reg y else s.reg x

/-- `X = NNN[11:8]`, the top nibble of the immediate of `BNNN` (R92, R161). -/
def topNibble (nnn : Addr12) : RegIdx := ⟨nnn.toNat / 256 % 16, Nat.mod_lt _ (by decide)⟩

/-- The register that `JP V0, NNN` adds: `x[X]` under `Q.jump`, else `x[0]` (R161). -/
def State.jumpOffset (s : State) (nnn : Addr12) : Byte := if s.q.jump then s.reg (topNibble nnn) else s.reg 0

/-- The target of `JP V0, NNN`: the full 12-bit `NNN` plus the register, never reduced modulo 4096 (R161). -/
def State.jumpTarget (s : State) (nnn : Addr12) : Word := nnn.zext + (s.jumpOffset nnn).zext

/-- The effective address of every data access: `I` as a natural number (R64, R198). -/
def State.address (s : State) : Nat := s.i.toNat

/-- The `n` bytes at `I` (R170, R197). -/
def State.bytesAtI (s : State) (n : Nat) : List Byte := s.mem.readBytes s.address n

/-- The address of the glyph that the byte `v` names, for `v <= 15` (R194). -/
def glyphAddress (v : Byte) : Word := BitVec.ofNat 16 (fontBase + Config.glyphBytes * v.toNat)

/-- The hundreds, tens and ones of `v` (R195). -/
def decimalDigits (v : Byte) : List Byte :=
  [BitVec.ofNat 8 (v.toNat / 100), BitVec.ofNat 8 (v.toNat / 10 % 10), BitVec.ofNat 8 (v.toNat % 10)]

/-- `pressed(v)`: `v <= 15` and key `v` is held; the whole byte is compared (R182, C2). -/
def State.pressed (s : State) (v : Byte) : Bool := decide (v.toNat ≤ 15) && s.keys.getLsbD v.toNat

/-- The keys of the snapshot that are no longer held, `S \ keys` (R183). -/
def State.released (s : State) (snapshot : KeySet) : KeySet := snapshot &&& ~~~ s.keys

/-- Where a bulk transfer through register `last` leaves `I`: past the range under `Q.mem`, else unchanged (R196). -/
def State.advanceI (s : State) (last : RegIdx) : State :=
  if s.q.mem then s.setI (s.i + BitVec.ofNat 16 (last.val + 1)) else s

end Sys2Proof.Machine
end

