-- ==== Sys2Proof/Machine/ControlFlow.lean ====
section
/-! DEFINITION. `CLS`, `RET`, `SYS`, `JP`, `CALL` and the skips on registers (40_control_flow.md). Every meaning runs
on the state whose `pc` is already `pc0 + 2` (R24, R90). -/

namespace Sys2Proof.Machine

/-- `CLS`: every pixel off (R120). -/
def execCls (s : State) : Host.Outcome State Fault Refusal := .next (s.setFb Framebuffer.blank)

/-- `RET`: pop into `pc`, or raise `StackUnderflow` (R121). -/
def execRet (s : State) : Host.Outcome State Fault Refusal :=
  .next (match s.stack with
    | [] => s.raise .stackUnderflow .ret
    | a :: rest => (s.setStack rest).setPc a)

/-- `SYS NNN`: by the OPEN parameter, an unknown instruction or nothing (R122, D2). -/
def execSys (nnn : Addr12) (s : State) : Host.Outcome State Fault Refusal :=
  .next (match Config.sysBehaviour with
    | .unknownInstruction => s.raise .unknownInstruction (.sys nnn)
    | .noOp => s)

/-- `JP NNN` (R123). -/
def execJp (nnn : Addr12) (s : State) : Host.Outcome State Fault Refusal := .next (s.setPc nnn.zext)

/-- `CALL NNN`: push the advanced counter, then jump (R124). -/
def execCall (nnn : Addr12) (s : State) : Host.Outcome State Fault Refusal :=
  .next ((s.push s.pc).setPc nnn.zext)

/-- `SE Vx, NN` (R125). -/
def execSeImm (x : RegIdx) (nn : Byte) (s : State) : Host.Outcome State Fault Refusal :=
  .next (s.skipIf (s.reg x == nn))

/-- `SNE Vx, NN` (R126). -/
def execSneImm (x : RegIdx) (nn : Byte) (s : State) : Host.Outcome State Fault Refusal :=
  .next (s.skipIf (s.reg x != nn))

/-- `SE Vx, Vy` (R127). -/
def execSeReg (x y : RegIdx) (s : State) : Host.Outcome State Fault Refusal :=
  .next (s.skipIf (s.reg x == s.reg y))

/-- `SNE Vx, Vy` (R128). -/
def execSneReg (x y : RegIdx) (s : State) : Host.Outcome State Fault Refusal :=
  .next (s.skipIf (s.reg x != s.reg y))

end Sys2Proof.Machine
end

