-- ==== Sys2Proof/Machine/Draw.lean ====
section
/-! DEFINITION. `DRW Vx, Vy, N` (43_draw.md R170). -/

namespace Sys2Proof.Machine

/-- The canvas that `DRW Vx, Vy, N` leaves: the `N` bytes at `I` drawn from column `x[X] mod 64` and row `x[Y] mod 32`,
both read before `VF` is cleared (R12, R170). -/
def State.drawn (s : State) (x y : RegIdx) (n : Fin 16) : Canvas :=
  drawSprite s.fb (startRow (s.reg y)) (startColumn (s.reg x)) (s.bytesAtI n.val)

/-- `DRW Vx, Vy, N`: the whole sprite is range-checked before anything is drawn; `VF` becomes the collision flag. -/
def execDrw (x y : RegIdx) (n : Fin 16) (s : State) : Host.Outcome State Fault Refusal :=
  .next (if inRange s.address n.val then
      (s.setFb (s.drawn x y n).fb).setFlag (s.drawn x y n).hit
    else s.raise .memoryOutOfBounds (.drw x y n))

end Sys2Proof.Machine
end

