-- ==== Sys2Proof/Machine/IndexJumpRandom.lean ====
section
/-! DEFINITION. `LD I, NNN`, `JP V0, NNN` and `RND Vx, NN` (42_index_jump_random.md). -/

namespace Sys2Proof.Machine

/-- `LD I, NNN` (R160). -/
def execLdI (nnn : Addr12) (s : State) : Host.Outcome State Fault Refusal := .next (s.setI nnn.zext)

/-- `JP V0, NNN` (R161). -/
def execJpV0 (nnn : Addr12) (s : State) : Host.Outcome State Fault Refusal := .next (s.setPc (s.jumpTarget nnn))

/-- `RND Vx, NN`: a free byte under the mask (R163). -/
def execRnd (x : RegIdx) (nn : Byte) (s : State) : Host.Outcome State Fault Refusal :=
  .next ((s.setReg x (s.drawnByte &&& nn)).nextDraw)

end Sys2Proof.Machine
end

