-- ==== Sys2Proof/Machine/Keypad.lean ====
section
/-! DEFINITION. `SKP Vx`, `SKNP Vx` and the key wait `LD Vx, K` (44_keypad.md). -/

namespace Sys2Proof.Machine

/-- `SKP Vx` (R180). -/
def execSkp (x : RegIdx) (s : State) : Host.Outcome State Fault Refusal := .next (s.skipIf (s.pressed (s.reg x)))

/-- `SKNP Vx` (R181). -/
def execSknp (x : RegIdx) (s : State) : Host.Outcome State Fault Refusal :=
  .next (s.skipIf (!s.pressed (s.reg x)))

/-- A poll that does not complete: the live key set becomes the snapshot and the instruction runs again (R183). -/
def State.keepWaiting (s : State) : State := (s.setWait (.awaiting s.keys)).rewind

/-- A poll that sees the non-empty set `released`: one of its keys, freely chosen, goes to `x[X]` and the wait ends
(R183). -/
def State.endWait (s : State) (x : RegIdx) (released : KeySet) : State :=
  ((s.setReg x (BitVec.ofNat 8 (s.chosenKey released).val)).setWait .idle).nextDraw

/-- `LD Vx, K`: the two-state machine of R184. -/
def execLdVxK (x : RegIdx) (s : State) : Host.Outcome State Fault Refusal :=
  .next (match s.wait with
    | .idle => s.keepWaiting
    | .awaiting snapshot =>
      if s.released snapshot = 0#16 then s.keepWaiting else s.endWait x (s.released snapshot))

end Sys2Proof.Machine
end

