-- ==== Sys2Proof/Machine/TimerIndexMemory.lean ====
section
/-! DEFINITION. Timer access, index arithmetic, font address, decimal store, bulk store and load
(45_timer_index_memory.md). -/

namespace Sys2Proof.Machine

/-- `LD Vx, DT` (R190). -/
def execLdVxDt (x : RegIdx) (s : State) : Host.Outcome State Fault Refusal := .next (s.setReg x s.dt)

/-- `LD DT, Vx` (R191). -/
def execLdDtVx (x : RegIdx) (s : State) : Host.Outcome State Fault Refusal := .next (s.setDt (s.reg x))

/-- `LD ST, Vx` (R192). -/
def execLdStVx (x : RegIdx) (s : State) : Host.Outcome State Fault Refusal := .next (s.setSt (s.reg x))

/-- `ADD I, Vx`: modulo 65536; under `Q.addi` a new `I` of 4096 or more sets `VF` to 1, and `VF` is not written
otherwise (R193, D18). -/
def execAddI (x : RegIdx) (s : State) : Host.Outcome State Fault Refusal :=
  let sum := s.i + (s.reg x).zext
  .next (if s.q.addi && beyondMemory sum then (s.setI sum).setFlag true else s.setI sum)

/-- `LD F, Vx`: the glyph's address for a value up to 15, no effect above (R194). -/
def execLdF (x : RegIdx) (s : State) : Host.Outcome State Fault Refusal :=
  .next (if (s.reg x).toNat ≤ 15 then s.setI (glyphAddress (s.reg x)) else s)

/-- `LD B, Vx`: three decimal digits at `I` (R195). -/
def execLdB (x : RegIdx) (s : State) : Host.Outcome State Fault Refusal :=
  .next (if inRange s.address 3 then s.store s.address (decimalDigits (s.reg x))
    else s.raise .memoryOutOfBounds (.ldB x))

/-- `LD [I], Vx`: `x[0]` to `x[X]` stored from `I` on (R196). -/
def execStRegs (x : RegIdx) (s : State) : Host.Outcome State Fault Refusal :=
  .next (if inRange s.address (x.val + 1) then (s.store s.address (s.regsUpTo x)).advanceI x
    else s.raise .memoryOutOfBounds (.stRegs x))

/-- `LD Vx, [I]`: `x[0]` to `x[X]` loaded from `I` on (R197). -/
def execLdRegs (x : RegIdx) (s : State) : Host.Outcome State Fault Refusal :=
  .next (if inRange s.address (x.val + 1) then
      (s.setRegs (putRegs s.x 0 (s.bytesAtI (x.val + 1)))).advanceI x
    else s.raise .memoryOutOfBounds (.ldRegs x))

end Sys2Proof.Machine
end

