-- ==== Sys2Proof/Machine/Engine.lean ====
section
/-! DEFINITION. One step of the Instruction Engine (30_encoding.md R90, 20_memory.md R65): fetch, advance, decode,
execute. The engine's result, `Ok` or `Fail`, is left in `State.failure` for the worker. -/

namespace Sys2Proof.Machine

/-- `W <- MemRead(pc, 2)`, big-endian; `none` when a byte of the word lies at 4096 or above (R65). -/
def State.fetchWord (s : State) : Option Word := s.mem.read2 s.pc.toNat

/-- The state in which an instruction executes: the result wire clear, `pc` advanced by 2 (R24, R90). -/
def State.advanced (s : State) : State := (s.setFailure none).setPc (s.pc + 2#16)

/-- `step()` of R90. A fetch that is out of range leaves `pc` alone and reports the word 0 (R65, D20); an unknown word
leaves it advanced (R254). -/
def engineStep (s : State) : Host.Outcome State Fault Refusal :=
  match s.fetchWord with
  | none => .next (s.fail .memoryOutOfBounds s.pc 0#16)
  | some w =>
    match decodeWord w with
    | .error _ => .next (s.advanced.fail .unknownInstruction s.pc w)
    | .ok i => exec i s.advanced

end Sys2Proof.Machine
end

