-- ==== Sys2Proof/Machine/Worker.lean ====
section
/-! DEFINITION. The Execution Host's worker (47_host_messages.md): the handling of the nine messages, the drain of the
instruction budget one instruction at a time, and the audio level. A message that owes no instructions is handled in one
step of the worker. A tick that grants a budget is handled in one step, and each instruction of the budget is one more
step, the last of which ends the message. Log entry 9. -/

namespace Sys2Proof.Machine

/-- The state part of an outcome changed; a fault or a refusal stays. -/
def mapNext (f : State → State) (o : Host.Outcome State Fault Refusal) : Host.Outcome State Fault Refusal :=
  match o with
  | .next t => .next (f t)
  | .fault r => .fault r
  | .refused r => .refused r

/-- `run is Running(_)`. -/
def RunState.isRunning (r : RunState) : Bool :=
  match r with
  | .stopped => false
  | .running _ => true

/-- The condition of the drain loop, `budget > 0 and run is Running(_)`: the worker is inside a tick's message (R222). -/
def State.draining (s : State) : Bool := decide (0 < s.budget) && s.run.isRunning

/-- `play` exactly when `ST > 0` (R224). -/
def audioLevel (st : Byte) : AudioLevel := if st = 0#8 then .pause else .play

/-- `update_audio()` (R224). -/
def State.updateAudio (s : State) : State := { s with audio := audioLevel s.st }

/-- The end of a message, unless instructions are still owed: the audio level is evaluated after the drain
(R211, R224). -/
def State.finishMessage (s : State) : State := if s.draining then s else s.updateAudio

/-- `tick_budget(rate) = ceil(rate * 8333 / 500000)`, exactly (R221, D23). -/
def tickBudget (rate : Rate) : Nat := (rate.toNat * 8333 + 499999) / 500000

/-- A timer decremented by 1, floored at zero (R31, R220). -/
def decrementTimer (v : Byte) : Byte := if v = 0#8 then 0#8 else v - 1#8

/-- The load reset: the whole Virtual Machine State (R291). The quirks, the run state, the budget and the queues are not
touched; nor are the model's own fields. -/
def State.loadReset (s : State) : State :=
  { s with
    x := Vector.replicate 16 0#8
    i := 0#16
    pc := 0x200#16
    mem := Memory.cleared
    stack := []
    fb := Framebuffer.blank
    dt := 0#8
    st := 0#8
    wait := .idle
    keys := 0#16 }

/-- `LoadProgram(bytes)`: an image of at most 3584 bytes resets the machine and is copied to `0x200`; a longer one
changes nothing (R213, R255). -/
def State.loadProgram (s : State) (bytes : List Byte) : State :=
  if Config.maxProgram < bytes.length then s.emit (.loadResult (some .programTooLarge))
  else (s.loadReset.setMem (Memory.image Config.loadOffset bytes)).emit (.loadResult none)

/-- `Tick`: the budget if running, then both timers (R220). -/
def State.handleTick (s : State) : State :=
  { s with
    budget := match s.run with
      | .running rate => tickBudget rate
      | .stopped => s.budget
    dt := decrementTimer s.dt
    st := decrementTimer s.st }

/-- The handling of one message already taken from the inbound queue (R212 to R220). -/
def handle (m : Message) (s : State) : Host.Outcome State Fault Refusal :=
  match m with
  | .command (.loadSettings quirks) => .next { s with q := quirks }
  | .command (.loadProgram bytes) => .next (s.loadProgram bytes)
  | .command .step => mapNext State.reportStep (engineStep s)
  | .command (.runProgram rate) => .next { s with run := .running rate }
  | .command .stop => .next { s with run := .stopped, budget := 0 }
  | .command .queryDisplay => .next (s.emit (.display s.fb))
  | .command .queryState => .next (s.emit (.runStatus s.run.isRunning))
  | .command (.sendKeys keys) => .next { s with keys := keys }
  | .tick => .next s.handleTick

/-- One iteration of the drain loop (R222, R223). -/
def drainStep (s : State) : Host.Outcome State Fault Refusal := mapNext State.accountDrained (engineStep s)

/-- One step of the worker (R211): an instruction of the current budget; else the next message; else it waits, or, the
queue being closed, exits (R228). -/
def workerStep (s : State) : Host.Outcome State Fault Refusal :=
  if s.draining then mapNext State.finishMessage (drainStep s)
  else
    match s.inq with
    | m :: rest =>
      if s.inqOpen then mapNext State.finishMessage (handle m { s with inq := rest })
      else .refused .queuedAtClose
    | [] => if s.inqOpen then .next s else .fault .workerExited

/-- A table word laid out where the worker fetches next, high byte first; a `pc` at which no instruction can lie is first
moved to the load offset. -/
def State.placeWord (s : State) (w : Word) : State :=
  let at0 : Word := if s.pc.toNat ≤ 4094 then s.pc else 0x200#16
  { s with pc := at0, mem := s.mem.writeBytes at0.toNat [Word.hiByte w, Word.loByte w] }

/-- What the very next step needs to execute an instruction: a budget in the middle of a drain suffices; otherwise a
`Step` command stands first in the open inbound queue (R214). -/
def State.requestStep (s : State) : State :=
  if s.draining then s else { s with inq := .command .step :: s.inq, inqOpen := true }

end Sys2Proof.Machine
end

