-- ==== Sys2Proof/Machine/Step.lean ====
section
/-! DEFINITION. The machine's step, which is the worker's (R4, R211), and the placing of an instruction for it. -/

namespace Sys2Proof.Machine

/-- One step of the machine. -/
def step (s : State) : Host.Outcome State Fault Refusal := workerStep s

/-- `s` with the table word `w` stored at the program counter and its execution requested, so that the very next step
executes it. Log entry 11. -/
def State.withFetchWord (s : State) (nbits w : Nat) : State := (s.placeWord (tableWord nbits w)).requestStep

end Sys2Proof.Machine
end

