-- ==== Sys2Proof/Machine/Agents.lean ====
section
/-! DEFINITION. The three agents, each with its own steps (00_scope.md R4): the worker, the Timer Source, which only
sends ticks (R229), and the client, which sends commands, polls for responses and closes the inbound queue
(R226 to R228). A list of actions is one interleaving; the order is an input (R226). -/

namespace Sys2Proof.Machine

/-- One action of one agent. -/
inductive Action where
  /-- The worker takes one step (R211). -/
  | worker
  /-- The Timer Source sends a tick (R229). -/
  | timer
  /-- The client sends a command (R212 to R219). -/
  | send (c : Command)
  /-- The client takes all responses there are (R227). -/
  | poll
  /-- The client closes the inbound queue (R228). -/
  | close
deriving DecidableEq, Repr

/-- A message appended to the inbound queue; nothing enters a closed queue (R37, R228). -/
def State.enqueue (s : State) (m : Message) : State := if s.inqOpen then { s with inq := s.inq ++ [m] } else s

/-- What a poll returns: all responses emitted and not yet taken, oldest first (R227). -/
def State.polled (s : State) : List Response := s.outq

/-- The state after one action of an agent. -/
def act (a : Action) (s : State) : Host.Outcome State Fault Refusal :=
  match a with
  | .worker => step s
  | .timer => .next (s.enqueue .tick)
  | .send c => .next (s.enqueue (.command c))
  | .poll => .next { s with outq := [] }
  | .close => .next { s with inqOpen := false }

/-- The actions in their order, stopping at the first fault or refusal. -/
def runActions (l : List Action) (s : State) : Host.Outcome State Fault Refusal :=
  match l with
  | [] => .next s
  | a :: rest =>
    match act a s with
    | .next t => runActions rest t
    | .fault r => .fault r
    | .refused r => .refused r

end Sys2Proof.Machine
end

