-- ==== Sys2Proof/Safety.lean ====
section
/-! DEFINITION. What claims about the machine are stated in: frames, the pixels a sprite covers, the invariant that every
step keeps, the part of the state the engine neither reads nor writes, and what it means that a message is next. -/

namespace Sys2Proof.Machine

/-! ### Frames -/

/-- The fields of the state, for saying what an instruction or a message may change. -/
inductive Field where
  | x | i | pc | mem | stack | fb | dt | st | wait | keys | q | run | budget | inq | inqOpen | outq | audio | failure | draws
deriving DecidableEq, Repr

/-- Field `f` is the same in both states; memory is the same when every byte reads as before. -/
def SameField (f : Field) (s t : State) : Prop :=
  match f with
  | .x => t.x = s.x
  | .i => t.i = s.i
  | .pc => t.pc = s.pc
  | .mem => ∀ a : Nat, t.byteAt a = s.byteAt a
  | .stack => t.stack = s.stack
  | .fb => t.fb = s.fb
  | .dt => t.dt = s.dt
  | .st => t.st = s.st
  | .wait => t.wait = s.wait
  | .keys => t.keys = s.keys
  | .q => t.q = s.q
  | .run => t.run = s.run
  | .budget => t.budget = s.budget
  | .inq => t.inq = s.inq
  | .inqOpen => t.inqOpen = s.inqOpen
  | .outq => t.outq = s.outq
  | .audio => t.audio = s.audio
  | .failure => t.failure = s.failure
  | .draws => t.draws = s.draws

/-- Every field that is not listed is unchanged from `s` to `t`. -/
def SameExcept (changed : List Field) (s t : State) : Prop := ∀ f : Field, f ∉ changed → SameField f s t

/-- Every register that is not listed is unchanged from `s` to `t`. -/
def RegsExcept (changed : List RegIdx) (s t : State) : Prop := ∀ r : RegIdx, r ∉ changed → t.reg r = s.reg r

/-- Every byte of memory outside the `n` bytes from `a` reads as before. -/
def BytesExcept (a n : Nat) (s t : State) : Prop := ∀ b : Nat, b < a ∨ a + n ≤ b → t.byteAt b = s.byteAt b

/-! ### Encodings -/

/-- The word `n` decodes to `i`. -/
def Decodes (n : Nat) (i : Instr) : Prop := decodeWord (BitVec.ofNat 16 n) = .ok i

/-- The words of R96: `5XYn` and `9XYn` with `n` from 1, `8XYn` with `n` in 8 to D or F, `EXnn` other than `9E`, `A1`,
`FXnn` other than the nine defined. -/
def UnknownWord (w : Word) : Prop :=
  (w.toNat / 4096 = 0x5 ∧ w.toNat % 16 ≠ 0) ∨
  (w.toNat / 4096 = 0x8 ∧ w.toNat % 16 ∈ [0x8, 0x9, 0xA, 0xB, 0xC, 0xD, 0xF]) ∨
  (w.toNat / 4096 = 0x9 ∧ w.toNat % 16 ≠ 0) ∨
  (w.toNat / 4096 = 0xE ∧ w.toNat % 256 ∉ [0x9E, 0xA1]) ∨
  (w.toNat / 4096 = 0xF ∧ w.toNat % 256 ∉ [0x07, 0x0A, 0x15, 0x18, 0x1E, 0x29, 0x33, 0x55, 0x65])

/-! ### Sprites (43_draw.md R171, R172) -/

/-- The sprite of `DRW Vx, Vy, n` in state `s` has a set bit on screen row `r`, column `c`: sprite row `k` is the byte at
`I + k`, its bit 7 the leftmost, placed at row `x[Y] mod 32 + k` and columns `x[X] mod 64 + 0 .. 7`. -/
def spriteOn (s : State) (x y : RegIdx) (n : Fin 16) (r c : Nat) : Bool :=
  decide ((s.reg y).toNat % 32 ≤ r) && decide (r < (s.reg y).toNat % 32 + n.val) &&
  decide ((s.reg x).toNat % 64 ≤ c) && decide (c < (s.reg x).toNat % 64 + 8) &&
  (s.byteAt (s.i.toNat + (r - (s.reg y).toNat % 32))).getLsbD (7 - (c - (s.reg x).toNat % 64))

/-! ### The engine and the host's state -/

/-- `s` with the host's own fields taken from `h` (R35 to R38). -/
def State.withHost (s h : State) : State :=
  { s with run := h.run, budget := h.budget, inq := h.inq, inqOpen := h.inqOpen, outq := h.outq, audio := h.audio }

/-- `n` steps of the engine, each of which ends in `Ok`; `none` as soon as one does not. -/
def engineRun (n : Nat) (s : State) : Option State :=
  match n with
  | 0 => some s
  | n + 1 =>
    match engineStep s with
    | .next t => if t.failure = none then engineRun n t else none
    | .fault _ => none
    | .refused _ => none

/-! ### Messages -/

/-- The worker is between messages, the inbound queue is open and `m` is its oldest message (R36, R211). -/
def Delivered (m : Message) (rest : List Message) (s : State) : Prop :=
  s.budget = 0 ∧ s.inqOpen = true ∧ s.inq = m :: rest

/-- The handling of a message writes the fields `changed` and takes the message from the queue; the audio level stays too
if it is the one that the unchanged sound timer asks for. -/
def MessageWrites (changed : List Field) (s t : State) : Prop :=
  SameExcept (.inq :: .audio :: changed) s t ∧ (s.audio = audioLevel s.st → t.st = s.st → t.audio = s.audio)

/-! ### The invariant -/

/-- What holds between any two steps of the worker (10_state.md R24, R36, R39; 47_host_messages.md R224). -/
structure Inv (s : State) : Prop where
  /-- Memory keeps its canonical form, all of it inside the 4096 bytes (R26). -/
  memWf : s.mem.wf = true
  /-- `pc` never exceeds the largest jump target, so it never wraps (R24). -/
  pcBound : s.pc.toNat ≤ 0x10FE
  /-- Every return address was pushed by a call and is at most 4096 (R39). -/
  stackBound : ∀ a ∈ s.stack, a.toNat ≤ 4096
  /-- While the key wait is pending, the instruction at `pc` is a key wait (R39). -/
  waitAtKeyWait : ∀ snapshot, s.wait = .awaiting snapshot →
    ∃ w x, s.fetchWord = some w ∧ decodeWord w = .ok (.ldVxK x)
  /-- Instructions are owed only while running (R36, R222). -/
  budgetRunning : 0 < s.budget → s.run.isRunning = true
  /-- The engine's result has been consumed (R256). -/
  resultTaken : s.failure = none
  /-- Between messages the audio level is the one the sound timer asks for (R224). -/
  audioLevel : s.budget = 0 → s.audio = audioLevel s.st

/-- The states that some interleaving of the agents' actions reaches from power-on (R4, R226). -/
inductive Reachable : State → Prop where
  | reset : Reachable State.reset
  | act {s t : State} (a : Action) (hs : Reachable s) (h : act a s = .next t) : Reachable t

end Sys2Proof.Machine
end

