-- ==== Sys2Proof/Certificates/Slice0/Obligations.lean ====
section
/-! DEFINITION. The statements for the provers. A statement about an instruction is about `exec` on the state whose `pc`
is already `pc0 + 2` (30_encoding.md R90), so an unchanged `pc` means the next instruction and the address of the
instruction itself is `s.pc - 2`; `StepExecutesTheDecodedInstruction` carries it to a step of the machine. `SameExcept`
is the frame over all fields of the state, `RegsExcept` over the registers, `BytesExcept` over memory. -/

open Sys2Proof Sys2Proof.Machine

/-! ### Encoding (30_encoding.md) -/

/-- Decoding reads back what encoding writes, for every well-formed instruction, and consumes exactly its two bytes
(R91, R94, R95). -/
def Obligations.DecodeReadsBackEncode : Prop :=
  ∀ (i : Instr) (rest : List Byte), i.wf = true → decode (encodeBytes i ++ rest) = .ok (i, rest)

/-- Encoding reads back what decoding reads: no bit of a defined word is dropped, and only well-formed instructions are
decoded (R94, R98). -/
def Obligations.EncodeReadsBackDecode : Prop :=
  ∀ (w : Word) (i : Instr), decodeWord w = .ok i → encode i = w ∧ i.wf = true

/-- A word is rejected exactly when it is one of R96, and by its own name. The strict matching of sub-opcodes is the
spec's decision D28 (log entry 28). -/
def Obligations.UnknownWordsAreExactlyR96 : Prop :=
  ∀ w : Word, (decodeWord w = .error (.unknownInstruction w) ↔ UnknownWord w) ∧
    ((∃ i, decodeWord w = .ok i) ↔ ¬ UnknownWord w)

/-- Words written out from the spec's own examples decode to the instructions they stand for; the high byte is first. -/
def Obligations.SpecWordsDecode : Prop :=
  decode [0x00#8, 0xE0#8] = .ok (.cls, []) ∧ decode [0x00#8, 0xEE#8] = .ok (.ret, []) ∧
  decode [0x12#8, 0x02#8] = .ok (.jp 0x202#12, []) ∧ decode [0x22#8, 0x0A#8] = .ok (.call 0x20A#12, []) ∧
  decode [0x4A#8, 0x07#8] = .ok (.sneImm 10 0x07#8, []) ∧ decode [0x81#8, 0x26#8] = .ok (.shr 1 2, []) ∧
  decode [0x91#8, 0x20#8] = .ok (.sneReg 1 2, []) ∧ decode [0xB2#8, 0x10#8] = .ok (.jpV0 0x210#12, []) ∧
  decode [0xC3#8, 0x0F#8] = .ok (.rnd 3 0x0F#8, []) ∧ decode [0xD0#8, 0x13#8] = .ok (.drw 0 1 3, []) ∧
  decode [0xE1#8, 0xA1#8] = .ok (.sknp 1, []) ∧ decode [0xF0#8, 0x33#8] = .ok (.ldB 0, [])

/-! ### The step of the engine (20_memory.md, 30_encoding.md, 60_exceptions.md) -/

/-- When the two bytes at `pc` decode to `i`, the engine executes `i` on the state with `pc` advanced by 2 (R90); a
drained step is that execution, accounted and followed by the end of the message if nothing more is owed (R222, R224);
an explicit `Step` is that execution, reported, and the end of the message (R214, R224). -/
def Obligations.StepExecutesTheDecodedInstruction : Prop :=
  ∀ (s : State) (i : Instr), s.pc.toNat ≤ 4094 →
    decode [s.byteAt s.pc.toNat, s.byteAt (s.pc.toNat + 1)] = .ok (i, []) →
    engineStep s = exec i { s with pc := s.pc + 2#16, failure := none } ∧
    (s.draining = true → step s =
      mapNext (fun u => u.accountDrained.finishMessage) (exec i { s with pc := s.pc + 2#16, failure := none })) ∧
    (∀ rest, Delivered (.command .step) rest s → step s =
      mapNext (fun u => u.reportStep.finishMessage)
        (exec i { s with inq := rest, pc := s.pc + 2#16, failure := none }))

/-- A fetch whose second byte would lie at 4096 or above fails with `MemoryOutOfBounds`, `pc` not advanced and nothing
else changed, and so fails again (R65). The reported word 0 is the spec's decision D20 (log entry 14). -/
def Obligations.FetchBeyondMemoryFails : Prop :=
  ∀ s : State, 4094 < s.pc.toNat → ∃ t, engineStep s = .next t ∧
    t.failure = some { kind := .memoryOutOfBounds, addr := s.pc, word := 0#16 } ∧ SameExcept [.failure] s t ∧
    engineStep t = .next t

/-- R254: the words of R96 fail with `UnknownInstruction`, reporting the address they were fetched from and themselves,
`pc` advanced and nothing else changed; so do the words `0NNN` other than `00E0` and `00EE` under that value of
`SYS_BEHAVIOUR`; and no other step fails so. -/
def Obligations.UnknownWordFailsAfterTheAdvance : Prop :=
  (∀ (s : State) (w : Word), s.fetchWord = some w →
    (UnknownWord w ∨
      (Config.sysBehaviour = .unknownInstruction ∧ w.toNat < 0x1000 ∧ w ≠ 0x00E0#16 ∧ w ≠ 0x00EE#16)) →
    ∃ t, engineStep s = .next t ∧ t.pc = s.pc + 2#16 ∧
      t.failure = some { kind := .unknownInstruction, addr := s.pc, word := w } ∧
      SameExcept [.pc, .failure] s t) ∧
  (∀ (s t : State) (f : Failure), engineStep s = .next t → t.failure = some f → f.kind = .unknownInstruction →
    ∃ w, s.fetchWord = some w ∧
      (UnknownWord w ∨
        (Config.sysBehaviour = .unknownInstruction ∧ w.toNat < 0x1000 ∧ w ≠ 0x00E0#16 ∧ w ≠ 0x00EE#16)))

/-- R252: the failure `RegisterIndexOutOfRange` exists and no step raises it. -/
def Obligations.NoRegisterIndexIsOutOfRange : Prop :=
  ∀ (s t : State) (f : Failure), engineStep s = .next t → t.failure = some f → f.kind ≠ .registerIndexOutOfRange

/-- R257: a failed step has changed only `pc`, by the advance, and for a failed fetch not even that. The report carries
the address the instruction was fetched from and its word; these two are the spec's decisions D20 and D21 (log entries
14 and 15), and so is the absence of partial effects, D16 (log entry 13). -/
def Obligations.FailedStepChangesOnlyPc : Prop :=
  ∀ (s t : State) (f : Failure), engineStep s = .next t → t.failure = some f →
    SameExcept [.pc, .failure] s t ∧ f.addr = s.pc ∧
    (∀ w, s.fetchWord = some w → t.pc = s.pc + 2#16 ∧ f.word = w) ∧
    (s.fetchWord = none → t.pc = s.pc ∧ f.word = 0#16 ∧ f.kind = .memoryOutOfBounds)

/-- The engine is a function of the Virtual Machine State and the quirks alone: with any other host state (run state,
budget, queues, audio level) it does the same and leaves that host state as it is (R4, R35 to R38, R266). -/
def Obligations.EngineNeitherReadsNorWritesHostState : Prop :=
  ∀ s h : State, engineStep (s.withHost h) = mapNext (fun t => t.withHost h) (engineStep s)

/-- No instruction reads the sound timer (R31, R262): with another `ST` every instruction has the same effect on
everything else, and leaves that `ST` unless it is `LD ST, Vx`, which writes the same value in both. -/
def Obligations.NoInstructionReadsTheSoundTimer : Prop :=
  ∀ (i : Instr) (s : State) (v : Byte), ∃ t, exec i s = .next t ∧
    exec i { s with st := v } = .next { t with st := if (∃ x, i = .ldStVx x) then t.st else v }

/-- R76: which instruction reaches which store. Memory is written by `LD B` and the bulk store only, the stack by `CALL`
and `RET`, the framebuffer by `CLS` and `DRW`, `DT` and `ST` by the instructions that name them, `I` by `LD I`,
`ADD I`, `LD F` and the bulk transfers, the blocking state by the key wait; the key set, the quirks and the host's state
by none. -/
def Obligations.WhichInstructionWritesWhichStore : Prop :=
  ∀ (i : Instr) (s t : State), exec i s = .next t →
    ((∀ x, i ≠ .ldB x) → (∀ x, i ≠ .stRegs x) → t.mem = s.mem) ∧
    ((∀ n, i ≠ .call n) → i ≠ .ret → t.stack = s.stack) ∧
    (i ≠ .cls → (∀ x y n, i ≠ .drw x y n) → t.fb = s.fb) ∧
    ((∀ x, i ≠ .ldDtVx x) → t.dt = s.dt) ∧
    ((∀ x, i ≠ .ldStVx x) → t.st = s.st) ∧
    ((∀ x, i ≠ .ldVxK x) → t.wait = s.wait) ∧
    ((∀ n, i ≠ .ldI n) → (∀ x, i ≠ .addI x) → (∀ x, i ≠ .ldF x) → (∀ x, i ≠ .stRegs x) → (∀ x, i ≠ .ldRegs x) →
      t.i = s.i) ∧
    SameExcept [.x, .i, .pc, .mem, .stack, .fb, .dt, .st, .wait, .failure, .draws] s t

/-! ### Control flow (40_control_flow.md) -/

/-- R120. -/
def Obligations.ClsTurnsEveryPixelOff : Prop :=
  Decodes 0x00E0 .cls ∧
  ∀ s : State, ∃ t, exec .cls s = .next t ∧ (∀ r c : Nat, r < 32 → c < 64 → t.fb.get r c = false) ∧
    SameExcept [.fb] s t

/-- R121: `RET` pops into `pc`, unchecked, so that a value out of range makes the next fetch fail; or it fails with
`StackUnderflow` when the stack is empty. -/
def Obligations.RetPopsOrUnderflows : Prop :=
  Decodes 0x00EE .ret ∧
  (∀ (s : State) (a : Word) (rest : List Word), s.stack = a :: rest → ∃ t, exec .ret s = .next t ∧
    t.pc = a ∧ t.stack = rest ∧ SameExcept [.pc, .stack] s t ∧ (4094 < a.toNat → t.fetchWord = none)) ∧
  (∀ s : State, s.stack = [] → ∃ t, exec .ret s = .next t ∧
    t.failure = some { kind := .stackUnderflow, addr := s.pc - 2#16, word := 0x00EE#16 } ∧
    SameExcept [.failure] s t)

/-- R122: `SYS NNN` ignores `NNN` and, by the OPEN parameter, fails as an unknown instruction or does nothing. The two
behaviours are the spec's decision D2 (log entry 4); the statement holds for both. -/
def Obligations.SysFollowsTheOpenParameter : Prop :=
  (∀ nnn : Addr12, nnn ≠ 0x0E0#12 → nnn ≠ 0x0EE#12 → Decodes nnn.toNat (.sys nnn)) ∧
  ∀ (nnn : Addr12) (s : State), ∃ t, exec (.sys nnn) s = .next t ∧
    match Config.sysBehaviour with
    | .noOp => t = s
    | .unknownInstruction => SameExcept [.failure] s t ∧
        t.failure = some { kind := .unknownInstruction, addr := s.pc - 2#16, word := BitVec.ofNat 16 nnn.toNat }

/-- R123: the jump, the self-jump as a fixed point of the engine for any number of steps, and the accepted target
`0xFFF` at which the next fetch fails. -/
def Obligations.JpJumpsAndSelfJumpIsAFixedPoint : Prop :=
  (∀ nnn : Addr12, Decodes (0x1000 + nnn.toNat) (.jp nnn)) ∧
  (∀ (nnn : Addr12) (s : State), ∃ t, exec (.jp nnn) s = .next t ∧ t.pc.toNat = nnn.toNat ∧ SameExcept [.pc] s t) ∧
  (∀ s : State, s.failure = none → s.fetchWord = some (BitVec.ofNat 16 (0x1000 + s.pc.toNat)) →
    engineStep s = .next s ∧ ∀ n : Nat, engineRun n s = some s) ∧
  (∀ s : State, ∃ t, exec (.jp 0xFFF#12) s = .next t ∧ t.fetchWord = none)

/-- R124: the call pushes the advanced counter and jumps. What is pushed is general knowledge GK9 and the unbounded
stack is the spec's decision D6 (log entries 1 and 12). -/
def Obligations.CallPushesTheAdvancedCounter : Prop :=
  ∀ nnn : Addr12, Decodes (0x2000 + nnn.toNat) (.call nnn) ∧
    ∀ s : State, ∃ t, exec (.call nnn) s = .next t ∧ t.pc.toNat = nnn.toNat ∧ t.stack = s.pc :: s.stack ∧
      SameExcept [.pc, .stack] s t

/-- R125, R126: the skips that compare a register with an immediate. -/
def Obligations.SkipOnImmediate : Prop :=
  ∀ (x : RegIdx) (nn : Byte),
    (Decodes (0x3000 + 256 * x.val + nn.toNat) (.seImm x nn) ∧
      ∀ s : State, ∃ t, exec (.seImm x nn) s = .next t ∧ SameExcept [.pc] s t ∧
        t.pc = if s.reg x = nn then s.pc + 2#16 else s.pc) ∧
    (Decodes (0x4000 + 256 * x.val + nn.toNat) (.sneImm x nn) ∧
      ∀ s : State, ∃ t, exec (.sneImm x nn) s = .next t ∧ SameExcept [.pc] s t ∧
        t.pc = if s.reg x ≠ nn then s.pc + 2#16 else s.pc)

/-- R127, R128: the skips that compare two registers. -/
def Obligations.SkipOnRegister : Prop :=
  ∀ x y : RegIdx,
    (Decodes (0x5000 + 256 * x.val + 16 * y.val) (.seReg x y) ∧
      ∀ s : State, ∃ t, exec (.seReg x y) s = .next t ∧ SameExcept [.pc] s t ∧
        t.pc = if s.reg x = s.reg y then s.pc + 2#16 else s.pc) ∧
    (Decodes (0x9000 + 256 * x.val + 16 * y.val) (.sneReg x y) ∧
      ∀ s : State, ∃ t, exec (.sneReg x y) s = .next t ∧ SameExcept [.pc] s t ∧
        t.pc = if s.reg x ≠ s.reg y then s.pc + 2#16 else s.pc)

/-! ### Loads and arithmetic (41_load_alu.md) -/

/-- R140, R141, R142, whose meanings the spec marks as general knowledge GK4 (log entry 1): load immediate, add immediate
modulo 256 without a flag (D33, log entry 20), copy. -/
def Obligations.LoadsAndAddImmediate : Prop :=
  (∀ (x : RegIdx) (nn : Byte),
    (Decodes (0x6000 + 256 * x.val + nn.toNat) (.ldImm x nn) ∧
      ∀ s : State, ∃ t, exec (.ldImm x nn) s = .next t ∧ t.reg x = nn ∧ RegsExcept [x] s t ∧ SameExcept [.x] s t) ∧
    (Decodes (0x7000 + 256 * x.val + nn.toNat) (.addImm x nn) ∧
      ∀ s : State, ∃ t, exec (.addImm x nn) s = .next t ∧
        (t.reg x).toNat = ((s.reg x).toNat + nn.toNat) % 256 ∧ RegsExcept [x] s t ∧ SameExcept [.x] s t)) ∧
  (∀ x y : RegIdx, Decodes (0x8000 + 256 * x.val + 16 * y.val) (.ldReg x y) ∧
    ∀ s : State, ∃ t, exec (.ldReg x y) s = .next t ∧ t.reg x = s.reg y ∧ RegsExcept [x] s t ∧ SameExcept [.x] s t)

/-- R143, R144, R145: the bitwise operations, bit by bit; they write no flag, which is the spec's decision D33 (log entry
20). -/
def Obligations.LogicIsBitwiseWithoutFlag : Prop :=
  ∀ x y : RegIdx,
    (Decodes (0x8001 + 256 * x.val + 16 * y.val) (.orReg x y) ∧
      ∀ s : State, ∃ t, exec (.orReg x y) s = .next t ∧ RegsExcept [x] s t ∧ SameExcept [.x] s t ∧
        ∀ k < 8, (t.reg x).getLsbD k = ((s.reg x).getLsbD k || (s.reg y).getLsbD k)) ∧
    (Decodes (0x8002 + 256 * x.val + 16 * y.val) (.andReg x y) ∧
      ∀ s : State, ∃ t, exec (.andReg x y) s = .next t ∧ RegsExcept [x] s t ∧ SameExcept [.x] s t ∧
        ∀ k < 8, (t.reg x).getLsbD k = ((s.reg x).getLsbD k && (s.reg y).getLsbD k)) ∧
    (Decodes (0x8003 + 256 * x.val + 16 * y.val) (.xorReg x y) ∧
      ∀ s : State, ∃ t, exec (.xorReg x y) s = .next t ∧ RegsExcept [x] s t ∧ SameExcept [.x] s t ∧
        ∀ k < 8, (t.reg x).getLsbD k = ((s.reg x).getLsbD k ^^ (s.reg y).getLsbD k))

/-- R146: the sum modulo 256, and `VF` the carry; with `X = 15` the flag is what remains. -/
def Obligations.AddSetsCarry : Prop :=
  ∀ x y : RegIdx, Decodes (0x8004 + 256 * x.val + 16 * y.val) (.addReg x y) ∧
    ∀ s : State, ∃ t, exec (.addReg x y) s = .next t ∧
      (x ≠ 15 → (t.reg x).toNat = ((s.reg x).toNat + (s.reg y).toNat) % 256) ∧
      (t.reg 15).toNat = (if 255 < (s.reg x).toNat + (s.reg y).toNat then 1 else 0) ∧
      RegsExcept [x, 15] s t ∧ SameExcept [.x] s t

/-- R147, R149: both subtractions, modulo 256, with `VF` 1 exactly when no borrow was needed. Which opcode has which
operand order is general knowledge GK6 (log entry 1). -/
def Obligations.SubtractSetsNotBorrow : Prop :=
  ∀ x y : RegIdx,
    (Decodes (0x8005 + 256 * x.val + 16 * y.val) (.sub x y) ∧
      ∀ s : State, ∃ t, exec (.sub x y) s = .next t ∧
        (x ≠ 15 → (t.reg x).toNat = ((s.reg x).toNat + 256 - (s.reg y).toNat) % 256) ∧
        (t.reg 15).toNat = (if (s.reg y).toNat ≤ (s.reg x).toNat then 1 else 0) ∧
        RegsExcept [x, 15] s t ∧ SameExcept [.x] s t) ∧
    (Decodes (0x8007 + 256 * x.val + 16 * y.val) (.subn x y) ∧
      ∀ s : State, ∃ t, exec (.subn x y) s = .next t ∧
        (x ≠ 15 → (t.reg x).toNat = ((s.reg y).toNat + 256 - (s.reg x).toNat) % 256) ∧
        (t.reg 15).toNat = (if (s.reg x).toNat ≤ (s.reg y).toNat then 1 else 0) ∧
        RegsExcept [x, 15] s t ∧ SameExcept [.x] s t)

/-- R148, R150: the source is `x[Y]` under `Q.shift`, else `x[X]`; one bit position, the bit shifted out to `VF`. Which
opcode is which direction is general knowledge GK6 (log entry 1). -/
def Obligations.ShiftsFollowTheQuirk : Prop :=
  ∀ x y : RegIdx,
    (Decodes (0x8006 + 256 * x.val + 16 * y.val) (.shr x y) ∧
      ∀ s : State, ∃ t, exec (.shr x y) s = .next t ∧
        (x ≠ 15 → (t.reg x).toNat = (if s.q.shift then s.reg y else s.reg x).toNat / 2) ∧
        (t.reg 15).toNat = (if s.q.shift then s.reg y else s.reg x).toNat % 2 ∧
        RegsExcept [x, 15] s t ∧ SameExcept [.x] s t) ∧
    (Decodes (0x800E + 256 * x.val + 16 * y.val) (.shl x y) ∧
      ∀ s : State, ∃ t, exec (.shl x y) s = .next t ∧
        (x ≠ 15 → (t.reg x).toNat = 2 * (if s.q.shift then s.reg y else s.reg x).toNat % 256) ∧
        (t.reg 15).toNat = (if s.q.shift then s.reg y else s.reg x).toNat / 128 ∧
        RegsExcept [x, 15] s t ∧ SameExcept [.x] s t)

/-! ### Index, indirect jump, random (42_index_jump_random.md) -/

/-- R160, whose meaning the spec marks as general knowledge GK4 (log entry 1). -/
def Obligations.LoadIndex : Prop :=
  ∀ nnn : Addr12, Decodes (0xA000 + nnn.toNat) (.ldI nnn) ∧
    ∀ s : State, ∃ t, exec (.ldI nnn) s = .next t ∧ t.i.toNat = nnn.toNat ∧ SameExcept [.i] s t

/-- R161: the plain sum of the full `NNN` and `x[0]`, or under `Q.jump` the register that the top nibble of `NNN` names;
never reduced modulo 4096, at most `0x10FE`; from 4095 on the next fetch fails. -/
def Obligations.IndirectJumpAddsTheRegister : Prop :=
  ∀ nnn : Addr12, Decodes (0xB000 + nnn.toNat) (.jpV0 nnn) ∧
    ∀ s : State, ∃ t, exec (.jpV0 nnn) s = .next t ∧ SameExcept [.pc] s t ∧ t.pc.toNat ≤ 0x10FE ∧
      (s.q.jump = false → t.pc.toNat = nnn.toNat + (s.reg 0).toNat) ∧
      (∀ x : RegIdx, s.q.jump = true → x.val = nnn.toNat / 256 → t.pc.toNat = nnn.toNat + (s.reg x).toNat) ∧
      (4095 ≤ t.pc.toNat → t.fetchWord = none)

/-- R163: any byte under the mask. The byte is a free value (decision D30, log entry 5); nothing is assumed of it. -/
def Obligations.RandomByteUnderTheMask : Prop :=
  ∀ (x : RegIdx) (nn : Byte), Decodes (0xC000 + 256 * x.val + nn.toNat) (.rnd x nn) ∧
    ∀ s : State, ∃ t, exec (.rnd x nn) s = .next t ∧ t.reg x = Config.drawnByte s.draws &&& nn ∧
      t.reg x &&& ~~~nn = 0#8 ∧ t.draws = s.draws + 1 ∧ RegsExcept [x] s t ∧ SameExcept [.x, .draws] s t

/-! ### Sprite draw (43_draw.md) -/

/-- R170, R171, R172, R173: every visible set sprite bit inverts its pixel and no other pixel changes; the start wraps
and nothing after it; `VF` is 1 exactly when some pixel went from on to off, else 0. That `N = 0` succeeds wherever `I`
points is the spec's decision D17 (log entry 13); that a coordinate in register 15 is read before `VF` is cleared is its
decision D14 (log entry 25). -/
def Obligations.DrawInvertsPixelsAndReportsCollision : Prop :=
  ∀ (x y : RegIdx) (n : Fin 16) (s : State), (n.val = 0 ∨ s.i.toNat + n.val ≤ 4096) →
    ∃ t, exec (.drw x y n) s = .next t ∧
      (∀ r c : Nat, r < 32 → c < 64 → t.fb.get r c = (s.fb.get r c ^^ spriteOn s x y n r c)) ∧
      ((∃ r c : Nat, r < 32 ∧ c < 64 ∧ s.fb.get r c = true ∧ t.fb.get r c = false) → t.reg 15 = 1#8) ∧
      ((¬ ∃ r c : Nat, r < 32 ∧ c < 64 ∧ s.fb.get r c = true ∧ t.fb.get r c = false) → t.reg 15 = 0#8) ∧
      RegsExcept [15] s t ∧ SameExcept [.x, .fb] s t

/-- R170: the word `DXYN`; `N = 0` draws nothing and clears `VF`, wherever `I` points (decision D17); a sprite that does
not lie wholly in memory fails before anything is drawn (decision D16; log entry 13). -/
def Obligations.DrawEncodingEmptyAndOutOfRange : Prop :=
  ∀ x y : RegIdx,
    (∀ n : Fin 16, Decodes (0xD000 + 256 * x.val + 16 * y.val + n.val) (.drw x y n)) ∧
    (∀ s : State, ∃ t, exec (.drw x y 0) s = .next t ∧ t.reg 15 = 0#8 ∧ RegsExcept [15] s t ∧ SameExcept [.x] s t) ∧
    (∀ (n : Fin 16) (s : State), 0 < n.val → 4096 < s.i.toNat + n.val → ∃ t, exec (.drw x y n) s = .next t ∧
      t.failure = some { kind := .memoryOutOfBounds, addr := s.pc - 2#16,
                         word := BitVec.ofNat 16 (0xD000 + 256 * x.val + 16 * y.val + n.val) } ∧
      SameExcept [.failure] s t)

/-- R174 (1): the same sprite drawn twice at the same place restores the framebuffer. The second draw reports a collision
exactly when the sprite turned on some pixel that was off: the rule's derived sentence says "touched at least one
visible set sprite bit", which R173 makes true only of pixels that were off (log entry 26). -/
def Obligations.DrawingTwiceRestoresTheScreen : Prop :=
  ∀ (x y : RegIdx) (n : Fin 16) (s t u : State), s.i.toNat + n.val ≤ 4096 →
    exec (.drw x y n) s = .next t →
    (t.reg x).toNat % 64 = (s.reg x).toNat % 64 → (t.reg y).toNat % 32 = (s.reg y).toNat % 32 →
    exec (.drw x y n) t = .next u →
    u.fb = s.fb ∧
    (u.reg 15 = 1#8 ↔ ∃ r c : Nat, r < 32 ∧ c < 64 ∧ spriteOn s x y n r c = true ∧ s.fb.get r c = false)

/-! ### Keys (44_keypad.md) -/

/-- R180, R181, R182: the skips on a key. The whole byte is compared and a value above 15 is never pressed, which is the
spec's decision D19 (log entry 17). -/
def Obligations.SkipOnKey : Prop :=
  ∀ x : RegIdx,
    (Decodes (0xE09E + 256 * x.val) (.skp x) ∧
      ∀ s : State, ∃ t, exec (.skp x) s = .next t ∧ SameExcept [.pc] s t ∧
        t.pc = if (s.reg x).toNat ≤ 15 ∧ s.keys.getLsbD (s.reg x).toNat = true then s.pc + 2#16 else s.pc) ∧
    (Decodes (0xE0A1 + 256 * x.val) (.sknp x) ∧
      ∀ s : State, ∃ t, exec (.sknp x) s = .next t ∧ SameExcept [.pc] s t ∧
        t.pc = if (s.reg x).toNat ≤ 15 ∧ s.keys.getLsbD (s.reg x).toNat = true then s.pc else s.pc + 2#16)

/-- R184: the table of the two-state machine, and that nothing else moves it: no other instruction; no step of the
engine and no `Step` message that does not execute `LD Vx, K`; no other message, `SendKeys` among them, which writes
`keys` alone; but an accepted load forces `Idle`. -/
def Obligations.KeyWaitFollowsTheTable : Prop :=
  (∀ (x : RegIdx) (s : State), s.wait = .idle → ∃ t, exec (.ldVxK x) s = .next t ∧
    t.wait = .awaiting s.keys ∧ t.pc = s.pc - 2#16 ∧ SameExcept [.wait, .pc] s t) ∧
  (∀ (x : RegIdx) (s : State) (snapshot : KeySet), s.wait = .awaiting snapshot →
    (∀ k : RegIdx, snapshot.getLsbD k.val = true → s.keys.getLsbD k.val = true) → ∃ t, exec (.ldVxK x) s = .next t ∧
    t.wait = .awaiting s.keys ∧ t.pc = s.pc - 2#16 ∧ SameExcept [.wait, .pc] s t) ∧
  (∀ (x : RegIdx) (s : State) (snapshot : KeySet), s.wait = .awaiting snapshot →
    (∃ k : RegIdx, snapshot.getLsbD k.val = true ∧ s.keys.getLsbD k.val = false) →
    ∃ t, exec (.ldVxK x) s = .next t ∧ t.wait = .idle ∧ t.pc = s.pc ∧
      (∃ k : RegIdx, snapshot.getLsbD k.val = true ∧ s.keys.getLsbD k.val = false ∧ (t.reg x).toNat = k.val) ∧
      RegsExcept [x] s t ∧ SameExcept [.x, .wait, .draws] s t) ∧
  (∀ (i : Instr) (s t : State), (∀ x, i ≠ .ldVxK x) → exec i s = .next t → t.wait = s.wait) ∧
  (∀ s : State, (∀ w x, s.fetchWord = some w → decodeWord w ≠ .ok (.ldVxK x)) →
    (∃ t, engineStep s = .next t ∧ t.wait = s.wait) ∧
    ∃ t, handle (.command .step) s = .next t ∧ t.wait = s.wait) ∧
  (∀ (m : Message) (s t : State), m ≠ .command .step →
    (∀ bytes, m = .command (.loadProgram bytes) → 3584 < bytes.length) → handle m s = .next t → t.wait = s.wait) ∧
  (∀ (keys : KeySet) (s : State), ∃ t, handle (.command (.sendKeys keys)) s = .next t ∧ t.keys = keys ∧
    SameExcept [.keys] s t) ∧
  (∀ (bytes : List Byte) (s t : State), bytes.length ≤ 3584 → handle (.command (.loadProgram bytes)) s = .next t →
    t.wait = .idle)

/-- R183: the word `FX0A`; and the choice among several released keys is open: which key is reported is a free value
(decision D29, log entry 6), and for every released key there is a value of it that reports that key. -/
def Obligations.AnyReleasedKeyCanBeReported : Prop :=
  ∀ x : RegIdx, Decodes (0xF00A + 256 * x.val) (.ldVxK x) ∧
    ∀ (s : State) (snapshot : KeySet), s.wait = .awaiting snapshot →
      (∃ k : RegIdx, snapshot.getLsbD k.val = true ∧ s.keys.getLsbD k.val = false) →
      (∃ t, exec (.ldVxK x) s = .next t ∧ t.draws = s.draws + 1 ∧
        (t.reg x).toNat = (chooseKey (s.released snapshot) (Config.chosenIndex s.draws)).val) ∧
      (∀ n : Nat, snapshot.getLsbD (chooseKey (s.released snapshot) n).val = true ∧
        s.keys.getLsbD (chooseKey (s.released snapshot) n).val = false) ∧
      ∀ k : RegIdx, snapshot.getLsbD k.val = true → s.keys.getLsbD k.val = false →
        ∃ n : Nat, chooseKey (s.released snapshot) n = k

/-! ### Timers, index arithmetic, memory (45_timer_index_memory.md) -/

/-- R190, R191, R192: the three copies between a register and a timer; the audio level does not change at such a
step. -/
def Obligations.TimerCopies : Prop :=
  ∀ x : RegIdx,
    (Decodes (0xF007 + 256 * x.val) (.ldVxDt x) ∧
      ∀ s : State, ∃ t, exec (.ldVxDt x) s = .next t ∧ t.reg x = s.dt ∧ RegsExcept [x] s t ∧ SameExcept [.x] s t) ∧
    (Decodes (0xF015 + 256 * x.val) (.ldDtVx x) ∧
      ∀ s : State, ∃ t, exec (.ldDtVx x) s = .next t ∧ t.dt = s.reg x ∧ SameExcept [.dt] s t) ∧
    (Decodes (0xF018 + 256 * x.val) (.ldStVx x) ∧
      ∀ s : State, ∃ t, exec (.ldStVx x) s = .next t ∧ t.st = s.reg x ∧ SameExcept [.st] s t)

/-- R193: the new `I` is the sum modulo 65536; under `Q.addi` a new `I` of 4096 or more sets `VF` to 1, and `VF` is not
written otherwise. The wrap and the missing clear are the spec's decision D18 (log entry 16). -/
def Obligations.AddToIndexChecksTheRange : Prop :=
  ∀ x : RegIdx, Decodes (0xF01E + 256 * x.val) (.addI x) ∧
    ∀ s : State, ∃ t, exec (.addI x) s = .next t ∧
      t.i.toNat = (s.i.toNat + (s.reg x).toNat) % 65536 ∧
      t.reg 15 = (if s.q.addi = true ∧ 4096 ≤ (s.i.toNat + (s.reg x).toNat) % 65536 then 1#8 else s.reg 15) ∧
      RegsExcept [15] s t ∧ SameExcept [.x, .i] s t

/-- R194: the address of the glyph for a value up to 15, and no effect above; the 80 bytes of the font lie below
`0x200`. -/
def Obligations.LoadFontAddress : Prop :=
  ∀ x : RegIdx, Decodes (0xF029 + 256 * x.val) (.ldF x) ∧
    ∀ s : State, ∃ t, exec (.ldF x) s = .next t ∧
      ((s.reg x).toNat ≤ 15 → t.i.toNat = Config.fontBase.val + 5 * (s.reg x).toNat ∧ SameExcept [.i] s t) ∧
      (15 < (s.reg x).toNat → t = s)

/-- R195: the three decimal digits at `I`, or `MemoryOutOfBounds` with nothing written. -/
def Obligations.DecimalStore : Prop :=
  ∀ x : RegIdx, Decodes (0xF033 + 256 * x.val) (.ldB x) ∧
    (∀ s : State, s.mem.wf = true → s.address + 3 ≤ 4096 → ∃ t, exec (.ldB x) s = .next t ∧ s.address = s.i.toNat ∧
      (t.byteAt s.address).toNat = (s.reg x).toNat / 100 ∧
      (t.byteAt (s.address + 1)).toNat = (s.reg x).toNat / 10 % 10 ∧
      (t.byteAt (s.address + 2)).toNat = (s.reg x).toNat % 10 ∧
      BytesExcept s.address 3 s t ∧ SameExcept [.mem] s t) ∧
    (∀ s : State, 4096 < s.address + 3 → ∃ t, exec (.ldB x) s = .next t ∧
      t.failure = some { kind := .memoryOutOfBounds, addr := s.pc - 2#16,
                         word := BitVec.ofNat 16 (0xF033 + 256 * x.val) } ∧ SameExcept [.failure] s t)

/-- R196: `x[0]` to `x[X]` to `I`, `I + 1`, …, then under `Q.mem` the index past the range; or `MemoryOutOfBounds` with
nothing written. -/
def Obligations.BulkStore : Prop :=
  ∀ x : RegIdx, Decodes (0xF055 + 256 * x.val) (.stRegs x) ∧
    (∀ s : State, s.mem.wf = true → s.address + x.val + 1 ≤ 4096 → ∃ t, exec (.stRegs x) s = .next t ∧
      s.address = s.i.toNat ∧
      (∀ k : RegIdx, k ≤ x → t.byteAt (s.address + k.val) = s.reg k) ∧
      BytesExcept s.address (x.val + 1) s t ∧
      t.i.toNat = (if s.q.mem then s.i.toNat + x.val + 1 else s.i.toNat) ∧ SameExcept [.mem, .i] s t) ∧
    (∀ s : State, 4096 < s.address + x.val + 1 → ∃ t, exec (.stRegs x) s = .next t ∧
      t.failure = some { kind := .memoryOutOfBounds, addr := s.pc - 2#16,
                         word := BitVec.ofNat 16 (0xF055 + 256 * x.val) } ∧ SameExcept [.failure] s t)

/-- R197: `x[0]` to `x[X]` from `I`, `I + 1`, …, registers above `X` keeping their values, then under `Q.mem` the index
past the range; or `MemoryOutOfBounds` with nothing loaded. -/
def Obligations.BulkLoad : Prop :=
  ∀ x : RegIdx, Decodes (0xF065 + 256 * x.val) (.ldRegs x) ∧
    (∀ s : State, s.i.toNat + x.val + 1 ≤ 4096 → ∃ t, exec (.ldRegs x) s = .next t ∧
      (∀ k : RegIdx, t.reg k = if k ≤ x then s.byteAt (s.i.toNat + k.val) else s.reg k) ∧
      t.i.toNat = (if s.q.mem then s.i.toNat + x.val + 1 else s.i.toNat) ∧ SameExcept [.x, .i] s t) ∧
    (∀ s : State, 4096 < s.i.toNat + x.val + 1 → ∃ t, exec (.ldRegs x) s = .next t ∧
      t.failure = some { kind := .memoryOutOfBounds, addr := s.pc - 2#16,
                         word := BitVec.ofNat 16 (0xF065 + 256 * x.val) } ∧ SameExcept [.failure] s t)

/-! ### The host's messages (47_host_messages.md) -/

/-- R212: the whole settings record is replaced, nothing else is written and there is no response; no other message
changes the settings, a load among them. -/
def Obligations.LoadSettingsReplacesTheQuirks : Prop :=
  (∀ (quirks : Quirks) (rest : List Message) (s : State), Delivered (.command (.loadSettings quirks)) rest s →
    ∃ t, step s = .next t ∧ t.q = quirks ∧ t.inq = rest ∧ MessageWrites [.q] s t) ∧
  (∀ (m : Message) (s t : State), (∀ quirks, m ≠ .command (.loadSettings quirks)) → handle m s = .next t → t.q = s.q)

/-- R213, R291: an accepted image resets the whole Virtual Machine State and is copied to `0x200`. The values are the
spec's decisions D9 to D12 (log entry 23); the font bytes its default table (log entry 3). -/
def Obligations.LoadProgramAccepted : Prop :=
  ∀ (bytes : List Byte) (rest : List Message) (s : State), Delivered (.command (.loadProgram bytes)) rest s →
    bytes.length ≤ 3584 → ∃ t, step s = .next t ∧
      (∀ r : RegIdx, t.reg r = 0#8) ∧ t.i = 0#16 ∧ t.pc = 0x200#16 ∧ t.stack = [] ∧
      (∀ r c : Nat, t.fb.get r c = false) ∧ t.dt = 0#8 ∧ t.st = 0#8 ∧ t.wait = .idle ∧ t.keys = 0#16 ∧
      (∀ k : Nat, k < bytes.length → t.byteAt (0x200 + k) = bytes.getD k 0#8) ∧
      (∀ k : Nat, k < 80 → t.byteAt (Config.fontBase.val + k) = fontData.getD k 0#8) ∧
      (∀ a : Nat, (a < Config.fontBase.val ∨ Config.fontBase.val + 80 ≤ a) → (a < 0x200 ∨ 0x200 + bytes.length ≤ a) →
        t.byteAt a = 0#8) ∧
      t.outq = s.outq ++ [.loadResult none] ∧ t.inq = rest ∧ t.audio = .pause ∧
      SameExcept [.x, .i, .pc, .mem, .stack, .fb, .dt, .st, .wait, .keys, .outq, .inq, .audio] s t

/-- R255: a program of more than 3584 bytes is rejected and leaves everything as it was; only the load handling reports
this failure. -/
def Obligations.LoadProgramRejected : Prop :=
  (∀ (bytes : List Byte) (rest : List Message) (s : State), Delivered (.command (.loadProgram bytes)) rest s →
    3584 < bytes.length → ∃ t, step s = .next t ∧ t.outq = s.outq ++ [.loadResult (some .programTooLarge)] ∧
      t.inq = rest ∧ MessageWrites [.outq] s t) ∧
  (∀ s t : State, step s = .next t → .loadResult (some .programTooLarge) ∈ t.outq →
    .loadResult (some .programTooLarge) ∈ s.outq ∨
    ∃ bytes rest, s.inq = .command (.loadProgram bytes) :: rest ∧ 3584 < bytes.length)

/-- R214: one step of the engine, at once and whatever the run state, its result reported; run state and budget are not
written, on success or failure. -/
def Obligations.StepMessageReportsOneStep : Prop :=
  ∀ (rest : List Message) (s : State), Delivered (.command .step) rest s →
    ∃ u t, engineStep { s with inq := rest } = .next u ∧ step s = .next t ∧
      t.outq = s.outq ++ [.stepResult u.failure] ∧ t.run = s.run ∧ t.budget = s.budget ∧ t.inq = rest ∧
      SameExcept [.outq, .failure, .audio] u t

/-- R215, R216: `RunProgram` writes the run state and executes nothing; `Stop` writes the run state and leaves the budget
0. -/
def Obligations.RunAndStop : Prop :=
  (∀ (rate : Rate) (rest : List Message) (s : State), Delivered (.command (.runProgram rate)) rest s →
    ∃ t, step s = .next t ∧ t.run = .running rate ∧ t.inq = rest ∧ MessageWrites [.run] s t) ∧
  (∀ (rest : List Message) (s : State), Delivered (.command .stop) rest s →
    ∃ t, step s = .next t ∧ t.run = .stopped ∧ t.budget = 0 ∧ t.inq = rest ∧ MessageWrites [.run] s t)

/-- R217, R218: the two queries answer with the framebuffer, pixel by pixel, and with the run state without the rate;
they write nothing. -/
def Obligations.Queries : Prop :=
  (∀ (rest : List Message) (s : State), Delivered (.command .queryDisplay) rest s →
    ∃ t, step s = .next t ∧ t.outq = s.outq ++ [.display s.fb] ∧ t.inq = rest ∧ MessageWrites [.outq] s t) ∧
  (∀ (rest : List Message) (s : State), Delivered (.command .queryState) rest s →
    ∃ t, step s = .next t ∧ t.inq = rest ∧ MessageWrites [.outq] s t ∧
      (s.run = .stopped → t.outq = s.outq ++ [.runStatus false]) ∧
      ∀ rate, s.run = .running rate → t.outq = s.outq ++ [.runStatus true])

/-- R219: the key set is replaced, never merged, and nothing else is written. -/
def Obligations.SendKeysReplacesTheSet : Prop :=
  ∀ (keys : KeySet) (rest : List Message) (s : State), Delivered (.command (.sendKeys keys)) rest s →
    ∃ t, step s = .next t ∧ t.keys = keys ∧ t.inq = rest ∧ MessageWrites [.keys] s t

/-- R220: the budget if running, and both timers down by 1, floored at zero, whatever the run state; no instruction has
run yet. That a step of the machine ends here, before the tick's instructions, is the model's choice (log entry 9). -/
def Obligations.TickGrantsBudgetAndCountsDown : Prop :=
  ∀ (rest : List Message) (s : State), Delivered .tick rest s →
    ∃ t, step s = .next t ∧ t.dt.toNat = s.dt.toNat - 1 ∧ t.st.toNat = s.st.toNat - 1 ∧
      (s.run = .stopped → t.budget = s.budget) ∧
      (∀ rate, s.run = .running rate → t.budget = tickBudget rate) ∧
      t.inq = rest ∧ MessageWrites [.budget, .dt, .st] s t

/-- R221: the budget is the ceiling of `rate * 8333 / 500000`, exactly. The exact evaluation is the spec's decision D23
(log entry 18). -/
def Obligations.TickBudgetIsTheCeiling : Prop :=
  (∀ rate : Rate, rate.toNat * 8333 ≤ tickBudget rate * 500000 ∧ tickBudget rate * 500000 < rate.toNat * 8333 + 500000) ∧
  tickBudget 700#32 = 12

/-- R222: while instructions are owed and the host runs, a step of the machine is a step of the engine that costs one
unit of budget; no message is taken. If no step fails, the whole budget is executed and the budget is 0; a failure ends
the drain with budget 0. That one iteration of the drain is one step of the machine is the model's choice (log entry
9). -/
def Obligations.DrainRunsTheWholeBudget : Prop :=
  (∀ (s u : State) (rate : Rate), s.run = .running rate → 0 < s.budget → engineStep s = .next u →
    (u.failure = none → ∃ t, step s = .next t ∧ t.budget = s.budget - 1 ∧ t.inq = s.inq ∧ t.run = s.run ∧
      SameExcept [.budget, .audio] u t) ∧
    (∀ f, u.failure = some f → ∃ t, step s = .next t ∧ t.budget = 0 ∧ t.inq = s.inq ∧ t.draining = false)) ∧
  (∀ (s u : State) (rate : Rate), s.run = .running rate → 0 < s.budget → engineRun s.budget s = some u →
    ∃ t, Host.Core.run Sys2Proof.core s.budget s = .next t ∧ t.budget = 0 ∧ t.run = .running rate ∧ t.inq = s.inq ∧
      SameExcept [.budget, .audio] u t)

/-- R223: a failure of a drained step zeroes the budget, stops the run and is reported; the Virtual Machine State stays
as the failed step left it and the worker goes on. That a drained step is one step of the machine, and that the result
is a field which that step clears, are the model's choices (log entries 9 and 8). -/
def Obligations.DrainFailureStopsTheRun : Prop :=
  ∀ (s u : State) (rate : Rate) (f : Failure), s.run = .running rate → 0 < s.budget → engineStep s = .next u →
    u.failure = some f → ∃ t, step s = .next t ∧ t.budget = 0 ∧ t.run = .stopped ∧
      t.outq = s.outq ++ [.runError f] ∧ t.failure = none ∧
      SameExcept [.budget, .run, .outq, .failure, .audio] u t

/-- R211, R224: at the end of every message, after its drain, the audio level is `play` exactly when `ST > 0`. That it is
evaluated after every message is the spec's decision D24 (log entry 19); that the last instruction of the budget ends the
message in its own step is the model's choice (log entry 9). -/
def Obligations.AudioIsEvaluatedAfterEveryMessage : Prop :=
  ∀ s t : State, step s = .next t → (s.draining = true ∨ s.inq ≠ []) → t.draining = false →
    (0 < t.st.toNat → t.audio = .play) ∧ (t.st.toNat = 0 → t.audio = .pause)

/-- R211, R228: the worker stops only by shutdown. It exits when the inbound queue is closed and empty and no message is
in flight; messages still queued at the close are refused (decision D34, log entry 22); an empty open queue is waited
on, which the model makes a step that changes nothing (log entry 9). -/
def Obligations.OnlyShutdownStopsTheWorker : Prop :=
  ∀ s : State,
    (step s = .fault .workerExited ↔ s.draining = false ∧ s.inqOpen = false ∧ s.inq = []) ∧
    (step s = .refused .queuedAtClose ↔ s.draining = false ∧ s.inqOpen = false ∧ s.inq ≠ []) ∧
    (s.draining = false → s.inqOpen = true → s.inq = [] → step s = .next s) ∧
    ((s.draining = true ∨ s.inqOpen = true) → ∃ t, step s = .next t)

/-- R226, R227, R229: the other two agents reach nothing but the queues. Sends and ticks go to the end of the open
inbound queue, a poll takes all responses, a close only closes. The unbounded queues are the spec's decision D25 (log
entry 21). -/
def Obligations.OtherAgentsTouchOnlyTheQueues : Prop :=
  ∀ s : State,
    (s.inqOpen = true →
      act .timer s = .next { s with inq := s.inq ++ [.tick] } ∧
      ∀ c, act (.send c) s = .next { s with inq := s.inq ++ [.command c] }) ∧
    (∃ t, act .poll s = .next t ∧ s.polled = s.outq ∧ t.outq = [] ∧ SameExcept [.outq] s t) ∧
    (∃ t, act .close s = .next t ∧ t.inqOpen = false ∧ SameExcept [.inqOpen] s t)

/-! ### Invariants, reset and memory (10_state.md, 20_memory.md, 70_reset_and_hazards.md) -/

/-- The invariant holds at power-on (R39, R41). Its canonical memory (log entry 24) and consumed result (log entry 8) are
the model's representation; the power-on values are the spec's decisions D8 to D13 (log entry 10). -/
def Obligations.InvHoldsAtReset : Prop := Inv State.reset

/-- Every step keeps the invariant: canonical memory inside the 4096 bytes, `pc` at most `0x10FE`, return addresses at
most 4096, a pending wait at its key-wait instruction, a budget only while running, the result consumed, the audio level
right between messages (R24, R26, R36, R39, R224). The canonical form (log entry 24) and the consumed result (log entry 8)
are the model's representation, one instruction of the drain as one step is its choice (log entry 9), and the audio level
at the end of every message is the spec's decision D24 (log entry 19). -/
def Obligations.StepKeepsInv : Prop := ∀ s t : State, Inv s → step s = .next t → Inv t

/-- Whatever the client and the Timer Source do, in any interleaving, the invariant holds (R4, R226; the invariant's own
rules are those of `Obligations.StepKeepsInv`). Its canonical memory (log entry 24) and consumed result (log entry 8) are
the model's representation, and one instruction of the drain as one step is the model's choice (log entry 9). -/
def Obligations.EveryReachableStateMeetsInv : Prop := ∀ s : State, Reachable s → Inv s

/-- R41, R290: the machine at power-on. The values are the spec's decisions D8 to D13 (log entry 10); the font bytes its
default table (log entry 3). -/
def Obligations.PowerOnState : Prop :=
  (∀ r : RegIdx, State.reset.reg r = 0#8) ∧ State.reset.i = 0#16 ∧ State.reset.pc = 0x200#16 ∧
  State.reset.stack = [] ∧ (∀ r c : Nat, State.reset.fb.get r c = false) ∧ State.reset.dt = 0#8 ∧
  State.reset.st = 0#8 ∧ State.reset.wait = .idle ∧ State.reset.keys = 0#16 ∧
  State.reset.q = { shift := false, jump := false, addi := false, mem := false, q4 := false } ∧
  State.reset.run = .stopped ∧ State.reset.budget = 0 ∧ State.reset.inqOpen = true ∧ State.reset.inq = [] ∧
  State.reset.outq = [] ∧ State.reset.audio = .pause ∧
  (∀ k : Nat, k < 80 → State.reset.byteAt (Config.fontBase.val + k) = fontData.getD k 0#8) ∧
  (∀ a : Nat, (a < Config.fontBase.val ∨ Config.fontBase.val + 80 ≤ a) → State.reset.byteAt a = 0#8)

/-- Derived from R62, R63, R70: the memory primitives with their bounds check, and the framebuffer's read accessor. That
memory is a list of cells with a canonical form, which the premise asks for and a write keeps, is the model's choice of
representation (log entry 24, DESIGN CHOICE), and no clause of those rules. -/
def Obligations.MemoryPrimitives : Prop :=
  ∀ (m : Memory) (a : Nat) (v : Byte), m.wf = true →
    (4096 < a + 1 → m.read1 a = none ∧ m.write1 a v = none) ∧
    (4096 < a + 2 → m.read2 a = none) ∧
    (a + 1 ≤ 4096 → m.read1 a = some (m.read a) ∧
      ∃ m', m.write1 a v = some m' ∧ m'.wf = true ∧ m'.read a = v ∧ ∀ b : Nat, b ≠ a → m'.read b = m.read b) ∧
    (a + 2 ≤ 4096 → ∃ w, m.read2 a = some w ∧ w.toNat = (m.read a).toNat * 256 + (m.read (a + 1)).toNat) ∧
    (∀ (fb : Framebuffer) (r c : Nat), (32 ≤ r ∨ 64 ≤ c) → fb.get r c = false) ∧
    (∀ (fb : Framebuffer) (r c : Nat) (hr : r < 32) (hc : c < 64), fb.get r c = fb[r][c])

/-- R74: a store is seen by the very next fetch, with nothing needed in between: after a bulk store or a decimal store,
at whatever distance from `pc` it falls, the word fetched next is made of the two bytes that memory now holds at `pc`
and `pc + 1`, each of them the stored byte where the stored range covers it and the byte of before elsewhere. -/
def Obligations.StoresAreSeenByTheNextFetch : Prop :=
  ∀ (x : RegIdx) (s : State), s.mem.wf = true → s.pc.toNat ≤ 4094 →
    (s.address + x.val + 1 ≤ 4096 → ∃ t, exec (.stRegs x) s = .next t ∧
      t.fetchWord = some (wordOfBytes (t.byteAt s.pc.toNat) (t.byteAt (s.pc.toNat + 1))) ∧
      (∀ k : RegIdx, k ≤ x → t.byteAt (s.address + k.val) = s.reg k) ∧ BytesExcept s.address (x.val + 1) s t) ∧
    (s.address + 3 ≤ 4096 → ∃ t, exec (.ldB x) s = .next t ∧
      t.fetchWord = some (wordOfBytes (t.byteAt s.pc.toNat) (t.byteAt (s.pc.toNat + 1))) ∧
      (t.byteAt s.address).toNat = (s.reg x).toNat / 100 ∧
      (t.byteAt (s.address + 1)).toNat = (s.reg x).toNat / 10 % 10 ∧
      (t.byteAt (s.address + 2)).toNat = (s.reg x).toNat % 10 ∧ BytesExcept s.address 3 s t)
end

