-- ==== Sys2Proof/Laws/Decode.lean ====
section
/-! SUPPORT. The fields of the encoding's formats (30_encoding.md R91, R92), the two bytes of a word (R66), and the
decoder on a first nibble. -/

namespace Sys2Proof

/-! ### Bytes of a word -/

theorem wordOfBytes_toNat (hi lo : Byte) : (wordOfBytes hi lo).toNat = hi.toNat * 256 + lo.toNat := by
  have h1 := hi.isLt
  have h2 := lo.isLt
  simp only [wordOfBytes, BitVec.toNat_ofNat]
  omega

@[simp] theorem hiByte_wordOfBytes (hi lo : Byte) : Word.hiByte (wordOfBytes hi lo) = hi := by
  have h1 := hi.isLt
  have h2 := lo.isLt
  apply BitVec.eq_of_toNat_eq
  simp only [Word.hiByte, BitVec.toNat_ofNat, wordOfBytes_toNat]
  omega

@[simp] theorem loByte_wordOfBytes (hi lo : Byte) : Word.loByte (wordOfBytes hi lo) = lo := by
  have h2 := lo.isLt
  apply BitVec.eq_of_toNat_eq
  simp only [Word.loByte, BitVec.toNat_ofNat, wordOfBytes_toNat]
  omega

@[simp] theorem wordOfBytes_hiByte_loByte (w : Word) : wordOfBytes (Word.hiByte w) (Word.loByte w) = w := by
  have h := w.isLt
  apply BitVec.eq_of_toNat_eq
  simp only [wordOfBytes_toNat, Word.hiByte, Word.loByte, BitVec.toNat_ofNat]
  omega

/-! ### Fields of the formats -/

theorem formatNNN_toNat {op : Nat} (h : op < 16) (nnn : Addr12) : (formatNNN op nnn).toNat = op * 4096 + nnn.toNat := by
  have := nnn.isLt
  simp only [formatNNN, BitVec.toNat_ofNat]
  omega

theorem formatXNN_toNat {op : Nat} (h : op < 16) (x : RegIdx) (nn : Byte) :
    (formatXNN op x nn).toNat = op * 4096 + x.val * 256 + nn.toNat := by
  have := nn.isLt
  simp only [formatXNN, BitVec.toNat_ofNat]
  omega

theorem formatXYN_toNat {op : Nat} (h : op < 16) (x y : RegIdx) (n : Fin 16) :
    (formatXYN op x y n).toNat = op * 4096 + x.val * 256 + y.val * 16 + n.val := by
  simp only [formatXYN, BitVec.toNat_ofNat]
  omega

theorem fieldOp_of_toNat {w : Word} {op r : Nat} (h : w.toNat = op * 4096 + r) (hr : r < 4096) : Word.fieldOp w = op := by
  simp only [Word.fieldOp]
  omega

theorem fieldX_of_toNat {w : Word} {op r : Nat} {x : RegIdx} (h : w.toNat = op * 4096 + x.val * 256 + r) (hr : r < 256) :
    Word.fieldX w = x := by
  apply Fin.ext
  simp only [Word.fieldX]
  omega

theorem fieldY_of_toNat {w : Word} {q r : Nat} {y : RegIdx} (h : w.toNat = q * 256 + y.val * 16 + r) (hr : r < 16) :
    Word.fieldY w = y := by
  apply Fin.ext
  simp only [Word.fieldY]
  omega

theorem fieldN_of_toNat {w : Word} {q : Nat} {n : Fin 16} (h : w.toNat = q * 16 + n.val) : Word.fieldN w = n := by
  apply Fin.ext
  simp only [Word.fieldN]
  omega

theorem fieldNN_of_toNat {w : Word} {q : Nat} {nn : Byte} (h : w.toNat = q * 256 + nn.toNat) : Word.fieldNN w = nn := by
  have := nn.isLt
  apply BitVec.eq_of_toNat_eq
  simp only [Word.fieldNN, BitVec.toNat_ofNat]
  omega

theorem fieldNNN_of_toNat {w : Word} {op : Nat} {nnn : Addr12} (h : w.toNat = op * 4096 + nnn.toNat) :
    Word.fieldNNN w = nnn := by
  have := nnn.isLt
  apply BitVec.eq_of_toNat_eq
  simp only [Word.fieldNNN, BitVec.toNat_ofNat]
  omega

section Formats
variable {op : Nat} (h : op < 16) (nnn : Addr12) (x y : RegIdx) (nn : Byte) (n : Fin 16)
include h

theorem fieldOp_formatNNN : Word.fieldOp (formatNNN op nnn) = op := by
  have := nnn.isLt
  exact fieldOp_of_toNat (formatNNN_toNat h nnn) (by omega)

theorem fieldOp_formatXNN : Word.fieldOp (formatXNN op x nn) = op := by
  have := nn.isLt
  exact fieldOp_of_toNat (r := x.val * 256 + nn.toNat) (by rw [formatXNN_toNat h]; omega) (by omega)

theorem fieldOp_formatXYN : Word.fieldOp (formatXYN op x y n) = op :=
  fieldOp_of_toNat (r := x.val * 256 + y.val * 16 + n.val) (by rw [formatXYN_toNat h]; omega) (by omega)

theorem fieldNNN_formatNNN : Word.fieldNNN (formatNNN op nnn) = nnn := fieldNNN_of_toNat (formatNNN_toNat h nnn)

theorem fieldX_formatXNN : Word.fieldX (formatXNN op x nn) = x := fieldX_of_toNat (formatXNN_toNat h x nn) nn.isLt

theorem fieldNN_formatXNN : Word.fieldNN (formatXNN op x nn) = nn :=
  fieldNN_of_toNat (q := op * 16 + x.val) (by rw [formatXNN_toNat h]; omega)

theorem fieldX_formatXYN : Word.fieldX (formatXYN op x y n) = x :=
  fieldX_of_toNat (op := op) (r := y.val * 16 + n.val) (by rw [formatXYN_toNat h]; omega) (by omega)

theorem fieldY_formatXYN : Word.fieldY (formatXYN op x y n) = y :=
  fieldY_of_toNat (q := op * 16 + x.val) (r := n.val) (by rw [formatXYN_toNat h]; omega) (by omega)

theorem fieldN_formatXYN : Word.fieldN (formatXYN op x y n) = n :=
  fieldN_of_toNat (q := op * 256 + x.val * 16 + y.val) (by rw [formatXYN_toNat h]; omega)

end Formats

/-! ### The decoder on a first nibble (R94) -/

theorem decodeWord_eq {w : Word} {op : Nat} (h : Word.fieldOp w = op) (h1 : w ≠ 0x00E0#16) (h2 : w ≠ 0x00EE#16) :
    decodeWord w = decodeByOp op w := by
  rw [decodeWord, if_neg h1, if_neg h2, h]

/-- A word whose first nibble is not 0 is neither of the two fixed words. -/
theorem decodeWord_eq_of_pos {w : Word} {op : Nat} (h : Word.fieldOp w = op) (h0 : op ≠ 0) :
    decodeWord w = decodeByOp op w := by
  refine decodeWord_eq h ?_ ?_ <;>
  · rintro rfl
    exact h0 (h.symm.trans (by decide))

end Sys2Proof
end

