-- ==== Sys2Proof/Laws/Memory.lean ====
section
/-! SUPPORT. The laws of the memory (20_memory.md R62 to R69): what is read after a write, that every operation keeps the
canonical form, that equal contents are equal lists, and what an image holds. -/

namespace Sys2Proof.Machine

/-! ### Reset contents -/

/-- The font lies below `0x200`, so the reset contents from there on are zero (R28). -/
@[simp] theorem resetByte_high (a : Nat) (h : 0x200 ≤ a) : resetByte a = 0#8 := by
  simp [resetByte, Config.loadOffset, h]

theorem fontBase_add_le : fontBase + 80 ≤ 0x200 := by
  have := Config.fontBase.isLt
  unfold fontBase
  omega

theorem fontData_length : fontData.length = 80 := by decide

/-- Byte `k` of the font lies at `FONT_BASE + k` (R27, R291). -/
theorem resetByte_font (k : Nat) (h : k < 80) : resetByte (fontBase + k) = fontData.getD k 0#8 := by
  have hb := fontBase_add_le
  have h1 : ¬ 512 ≤ fontBase + k := by omega
  simp [resetByte, Config.loadOffset, Config.fontBytes, h1, h]

/-- Outside the font the reset contents are zero (R291). -/
theorem resetByte_zero (a : Nat) (h : a < fontBase ∨ fontBase + 80 ≤ a) : resetByte a = 0#8 := by
  have h1 : ¬ (fontBase ≤ a ∧ a < fontBase + 80) := by omega
  simp [resetByte, Config.fontBytes, h1]

/-! ### One byte -/

@[simp] theorem Memory.read_nil (a : Nat) : Memory.read [] a = resetByte a := rfl

@[simp] theorem Memory.read_cleared (a : Nat) : Memory.read Memory.cleared a = resetByte a := rfl

/-- Below the first listed address a canonical memory reads as after reset. -/
theorem Memory.read_of_lt {low : Nat} {m : Memory} (h : m.wfFrom low = true) {a : Nat} (ha : a < low) :
    m.read a = resetByte a := by
  induction m generalizing low with
  | nil => rfl
  | cons p rest ih =>
    obtain ⟨c, v⟩ := p
    simp only [Memory.wfFrom, Bool.and_eq_true, decide_eq_true_eq] at h
    have hne : a ≠ c := by omega
    simp only [Memory.read, hne, if_false]
    exact ih h.2 (by omega)

/-- A write is read back, and leaves every other byte alone (R63, R72). -/
theorem Memory.read_write {low : Nat} {m : Memory} (h : m.wfFrom low = true) (a b : Nat) (v : Byte) :
    (m.write a v).read b = if b = a then v else m.read b := by
  induction m generalizing low with
  | nil =>
    by_cases hv : v = resetByte a <;> by_cases hb : b = a <;> simp [Memory.write, Memory.read, hv, hb]
  | cons p rest ih =>
    obtain ⟨c, u⟩ := p
    simp only [Memory.wfFrom, Bool.and_eq_true, decide_eq_true_eq] at h
    simp only [Memory.write]
    by_cases hac : a < c
    · have hread : ∀ d, d < c → Memory.read ((c, u) :: rest) d = resetByte d := fun d hd => by
        have hne : d ≠ c := by omega
        simp only [Memory.read, hne, if_false]
        exact Memory.read_of_lt h.2 (by omega)
      by_cases hv : v = resetByte a
      · simp only [hac, hv, if_true]
        by_cases hb : b = a
        · simp [hb, hread a hac]
        · simp [hb]
      · simp only [hac, hv, if_true, if_false]
        by_cases hb : b = a <;> simp [Memory.read, hb]
    · by_cases hac' : a = c
      · subst hac'
        by_cases hv : v = resetByte a
        · simp only [hv, if_true, Nat.lt_irrefl, if_false]
          by_cases hb : b = a
          · subst hb
            simp [Memory.read_of_lt h.2 (Nat.lt_succ_self b)]
          · simp [Memory.read, hb]
        · simp only [hv, if_true, Nat.lt_irrefl, if_false]
          by_cases hb : b = a <;> simp [Memory.read, hb]
      · simp only [hac, hac', if_false, Memory.read]
        by_cases hbc : b = c
        · have hba : b ≠ a := by omega
          simp [hbc, show c ≠ a by omega]
        · simp [hbc, ih h.2]

theorem Memory.read_write_same {m : Memory} (h : m.wf = true) (a : Nat) (v : Byte) : (m.write a v).read a = v := by
  simp [Memory.read_write h]

theorem Memory.read_write_other {m : Memory} (h : m.wf = true) {a b : Nat} (hb : b ≠ a) (v : Byte) :
    (m.write a v).read b = m.read b := by
  simp [Memory.read_write h, hb]

/-! ### The canonical form -/

theorem Memory.wfFrom_mono {low low' : Nat} {m : Memory} (h : m.wfFrom low = true) (hl : low' ≤ low) :
    m.wfFrom low' = true := by
  cases m with
  | nil => rfl
  | cons p rest =>
    obtain ⟨c, v⟩ := p
    simp only [Memory.wfFrom, Bool.and_eq_true, decide_eq_true_eq] at h ⊢
    exact ⟨⟨⟨by omega, h.1.1.2⟩, h.1.2⟩, h.2⟩

/-- A write inside the memory keeps the canonical form. -/
theorem Memory.wfFrom_write {low : Nat} {m : Memory} (h : m.wfFrom low = true) {a : Nat} (hl : low ≤ a)
    (ha : a < 4096) (v : Byte) : (m.write a v).wfFrom low = true := by
  induction m generalizing low with
  | nil =>
    by_cases hv : v = resetByte a <;> simp [Memory.write, Memory.wfFrom, hv, hl, Config.memSize, ha]
  | cons p rest ih =>
    obtain ⟨c, u⟩ := p
    have hcons := h
    simp only [Memory.wfFrom, Bool.and_eq_true, decide_eq_true_eq] at h
    simp only [Memory.write]
    by_cases hac : a < c
    · by_cases hv : v = resetByte a
      · simp only [hac, hv, if_true]
        exact hcons
      · have htail : Memory.wfFrom (a + 1) ((c, u) :: rest) = true := by
          simp only [Memory.wfFrom, Bool.and_eq_true, decide_eq_true_eq]
          exact ⟨⟨⟨by omega, h.1.1.2⟩, h.1.2⟩, h.2⟩
        simp only [hac, hv, if_true, if_false]
        rw [Memory.wfFrom, htail]
        simp [hl, Config.memSize, ha, hv]
    · by_cases hac' : a = c
      · subst hac'
        by_cases hv : v = resetByte a
        · simp only [hv, if_true, Nat.lt_irrefl, if_false]
          exact Memory.wfFrom_mono h.2 (by omega)
        · simp only [hv, if_true, Nat.lt_irrefl, if_false, Memory.wfFrom, Bool.and_eq_true, decide_eq_true_eq]
          exact ⟨⟨⟨hl, by simpa [Config.memSize] using ha⟩, by simpa using hv⟩, h.2⟩
      · simp only [hac, hac', if_false, Memory.wfFrom, Bool.and_eq_true, decide_eq_true_eq]
        exact ⟨⟨⟨h.1.1.1, h.1.1.2⟩, h.1.2⟩, ih h.2 (by omega)⟩

theorem Memory.wf_write {m : Memory} (h : m.wf = true) {a : Nat} (ha : a < 4096) (v : Byte) :
    (m.write a v).wf = true :=
  Memory.wfFrom_write h (Nat.zero_le a) ha v

theorem Memory.wf_cleared : Memory.cleared.wf = true := rfl

/-- Equal contents are equal lists. -/
theorem Memory.ext_of_read {low : Nat} {m n : Memory} (hm : m.wfFrom low = true) (hn : n.wfFrom low = true)
    (h : ∀ a, m.read a = n.read a) : m = n := by
  induction m generalizing n low with
  | nil =>
    cases n with
    | nil => rfl
    | cons p rest =>
      obtain ⟨c, v⟩ := p
      have hc := h c
      simp only [Memory.wfFrom, Bool.and_eq_true, bne_iff_ne] at hn
      simp only [Memory.read, if_true] at hc
      exact absurd hc.symm hn.1.2
  | cons p rest ih =>
    obtain ⟨c, v⟩ := p
    have hm' := hm
    simp only [Memory.wfFrom, Bool.and_eq_true, decide_eq_true_eq, bne_iff_ne] at hm
    cases n with
    | nil =>
      have hc := h c
      simp only [Memory.read, if_true] at hc
      exact absurd hc hm.1.2
    | cons p' rest' =>
      obtain ⟨c', v'⟩ := p'
      have hn' := hn
      simp only [Memory.wfFrom, Bool.and_eq_true, decide_eq_true_eq, bne_iff_ne] at hn
      have hcc : c = c' := by
        rcases Nat.lt_trichotomy c c' with hlt | heq | hgt
        · have hc := h c
          have hne : c ≠ c' := by omega
          simp only [Memory.read, if_true, hne, if_false, Memory.read_of_lt hn.2 (show c < c' + 1 by omega)] at hc
          exact absurd hc hm.1.2
        · exact heq
        · have hc := h c'
          have hne : c' ≠ c := by omega
          simp only [Memory.read, if_true, hne, if_false, Memory.read_of_lt hm.2 (show c' < c + 1 by omega)] at hc
          exact absurd hc.symm hn.1.2
      subst hcc
      have hv : v = v' := by simpa [Memory.read] using h c
      subst hv
      have hrest : rest = rest' := by
        refine ih hm.2 hn.2 fun a => ?_
        by_cases ha : a = c
        · subst ha
          rw [Memory.read_of_lt hm.2 (Nat.lt_succ_self a), Memory.read_of_lt hn.2 (Nat.lt_succ_self a)]
        · simpa [Memory.read, ha] using h a
      rw [hrest]

/-! ### Byte sequences -/

theorem Memory.wf_writeBytes {m : Memory} (h : m.wf = true) {a : Nat} {bs : List Byte} (ha : a + bs.length ≤ 4096) :
    (m.writeBytes a bs).wf = true := by
  induction bs generalizing m a with
  | nil => exact h
  | cons b rest ih =>
    simp only [List.length_cons] at ha
    exact ih (Memory.wf_write h (by omega) b) (by omega)

/-- The stored bytes are read back, every other byte is as before (R63, R68). -/
theorem Memory.read_writeBytes {m : Memory} (h : m.wf = true) {a : Nat} {bs : List Byte}
    (ha : a + bs.length ≤ 4096) (b : Nat) :
    (m.writeBytes a bs).read b = if a ≤ b ∧ b < a + bs.length then bs.getD (b - a) 0#8 else m.read b := by
  induction bs generalizing m a with
  | nil => simp [Memory.writeBytes, show ¬ (a ≤ b ∧ b < a) by omega]
  | cons v rest ih =>
    simp only [List.length_cons] at ha
    rw [Memory.writeBytes, ih (Memory.wf_write h (by omega) v) (by omega), Memory.read_write h]
    rcases Nat.lt_trichotomy b a with hlt | heq | hgt
    · rw [if_neg (by omega), if_neg (by omega), if_neg (by simp only [List.length_cons]; omega)]
    · subst heq
      simp
    · have hsub : b - a = (b - (a + 1)) + 1 := by omega
      by_cases hin : b < a + 1 + rest.length
      · rw [if_pos (by omega), if_pos (by simp only [List.length_cons]; omega), hsub, List.getD_cons_succ]
      · rw [if_neg (by omega), if_neg (by omega), if_neg (by simp only [List.length_cons]; omega)]

@[simp] theorem Memory.readBytes_length (m : Memory) (a n : Nat) : (m.readBytes a n).length = n := by
  induction n generalizing a with
  | zero => rfl
  | succ n ih => simp [Memory.readBytes, ih]

/-- Byte `k` of a sequence read from `a` is the byte at `a + k`. -/
theorem Memory.readBytes_getD (m : Memory) (a n k : Nat) (hk : k < n) (d : Byte) :
    (m.readBytes a n).getD k d = m.read (a + k) := by
  induction n generalizing a k with
  | zero => omega
  | succ n ih =>
    cases k with
    | zero => simp [Memory.readBytes]
    | succ k =>
      have := ih (a + 1) k (by omega)
      simpa [Memory.readBytes, Nat.add_assoc, Nat.add_comm 1 k] using this

/-! ### Images (R213, R291) -/

theorem Memory.wfFrom_image {a : Nat} {bytes : List Byte} (h : a + bytes.length ≤ 4096) :
    (Memory.image a bytes).wfFrom a = true := by
  induction bytes generalizing a with
  | nil => rfl
  | cons b rest ih =>
    simp only [List.length_cons] at h
    have hrest := ih (a := a + 1) (by omega)
    simp only [Memory.image]
    by_cases hb : b = resetByte a
    · simp only [hb, if_true]
      exact Memory.wfFrom_mono hrest (by omega)
    · simp only [hb, if_false, Memory.wfFrom, Bool.and_eq_true, decide_eq_true_eq]
      exact ⟨⟨⟨Nat.le_refl a, by simp only [Config.memSize]; omega⟩, by simpa using hb⟩, hrest⟩

theorem Memory.wf_image {a : Nat} {bytes : List Byte} (h : a + bytes.length ≤ 4096) :
    (Memory.image a bytes).wf = true :=
  Memory.wfFrom_mono (Memory.wfFrom_image h) (Nat.zero_le a)

/-- What every byte holds after a load: the image, and outside it the reset contents. -/
theorem Memory.read_image {a : Nat} {bytes : List Byte} (h : a + bytes.length ≤ 4096) (b : Nat) :
    (Memory.image a bytes).read b =
      if a ≤ b ∧ b < a + bytes.length then bytes.getD (b - a) 0#8 else resetByte b := by
  induction bytes generalizing a with
  | nil => simp [Memory.image, show ¬ (a ≤ b ∧ b < a) by omega]
  | cons v rest ih =>
    simp only [List.length_cons] at h
    have hrest := ih (a := a + 1) (by omega)
    have hwf := Memory.wfFrom_image (a := a + 1) (bytes := rest) (by omega)
    simp only [Memory.image]
    rcases Nat.lt_trichotomy b a with hlt | heq | hgt
    · have h1 : ¬ (a + 1 ≤ b ∧ b < a + 1 + rest.length) := by omega
      have h2 : ¬ (a ≤ b ∧ b < a + (rest.length + 1)) := by omega
      rw [if_neg h1] at hrest
      by_cases hv : v = resetByte a <;> simp [hv, h2, Memory.read, show b ≠ a by omega, hrest]
    · subst heq
      by_cases hv : v = resetByte b
      · simp [hv, Memory.read_of_lt hwf (Nat.lt_succ_self b)]
      · simp [hv, Memory.read]
    · have hsub : b - a = (b - (a + 1)) + 1 := by omega
      have hiff : (a + 1 ≤ b ∧ b < a + 1 + rest.length) ↔ (a ≤ b ∧ b < a + (rest.length + 1)) := by omega
      simp only [hiff] at hrest
      rw [List.length_cons, hsub, List.getD_cons_succ, ← hrest]
      by_cases hv : v = resetByte a <;> simp [hv, Memory.read, show b ≠ a by omega]

/-- The image built in one pass is the copy byte by byte of R213. -/
theorem Memory.image_eq_writeBytes {a : Nat} {bytes : List Byte} (h : a + bytes.length ≤ 4096) :
    Memory.image a bytes = Memory.cleared.writeBytes a bytes := by
  refine Memory.ext_of_read (low := 0) (Memory.wf_image h) (Memory.wf_writeBytes Memory.wf_cleared h) fun b => ?_
  rw [Memory.read_image h, Memory.read_writeBytes Memory.wf_cleared h]
  rfl

/-! ### The range check (R64, R69) -/

theorem inRange_iff (a n : Nat) : inRange a n = true ↔ n = 0 ∨ a + n ≤ 4096 := by
  simp only [inRange, Bool.or_eq_true, beq_iff_eq, decide_eq_true_eq, Config.memSize]

theorem inRange_pos {a n : Nat} (hn : 0 < n) : inRange a n = true ↔ a + n ≤ 4096 := by
  rw [inRange_iff]
  omega

end Sys2Proof.Machine
end

