-- ==== Sys2Proof/Laws/Screen.lean ====
section
/-! SUPPORT. The laws of the framebuffer and of the sprite draw (10_state.md R30, 20_memory.md R70, 43_draw.md R171 to
R173): what a pixel is after a put, a plot, a row and a whole sprite, and when a collision is reported. -/

namespace Sys2Proof.Machine

theorem Framebuffer.get_outside (fb : Framebuffer) {r c : Nat} (h : ¬ (r < 32 ∧ c < 64)) : fb.get r c = false := by
  simp [Framebuffer.get, h]

/-- Two screens with the same pixels are the same. -/
theorem Framebuffer.ext_of_get {f g : Framebuffer} (h : ∀ r c, f.get r c = g.get r c) : f = g := by
  refine Vector.ext fun r hr => Vector.ext fun c hc => ?_
  simpa [Framebuffer.get, hr, hc] using h r c

@[simp] theorem Framebuffer.get_blank (r c : Nat) : Framebuffer.blank.get r c = false := by
  by_cases h : r < 32 ∧ c < 64 <;> simp [Framebuffer.get, Framebuffer.blank, h]

/-- A put changes its own pixel, if it is one, and no other. -/
theorem Framebuffer.get_put (fb : Framebuffer) (r c r' c' : Nat) (v : Bool) :
    (fb.put r c v).get r' c' = if r' = r ∧ c' = c ∧ r < 32 ∧ c < 64 then v else fb.get r' c' := by
  by_cases h : r < 32 ∧ c < 64
  · by_cases h' : r' < 32 ∧ c' < 64
    · simp only [Framebuffer.put, h, Framebuffer.get, h', and_self, dif_pos, and_true]
      by_cases hr : r' = r
      · subst hr
        by_cases hc : c' = c
        · subst hc
          simp
        · simp [hc, Ne.symm hc]
      · simp [hr, Ne.symm hr]
    · rw [Framebuffer.get_outside _ h', Framebuffer.get_outside _ h']
      have : ¬ (r' = r ∧ c' = c ∧ r < 32 ∧ c < 64) := fun hh => h' ⟨hh.1 ▸ hh.2.2.1, hh.2.1 ▸ hh.2.2.2⟩
      simp [this]
  · simp [Framebuffer.put, h]

/-- One plotted sprite bit inverts exactly its own pixel, if that lies on the screen (R171, R172). -/
theorem Canvas.get_plot (p : Canvas) (r c r' c' : Nat) :
    (p.plot r c).fb.get r' c' = (p.fb.get r' c' ^^ decide (r' = r ∧ c' = c ∧ r < 32 ∧ c < 64)) := by
  by_cases h : r < 32 ∧ c < 64
  · simp only [Canvas.plot, h, and_self, if_true, Framebuffer.get_put, and_true]
    by_cases he : r' = r ∧ c' = c
    · simp [he.1, he.2]
    · simp [he]
  · simp [Canvas.plot, h]

/-- A plotted bit is a collision exactly when its pixel was on (R173). -/
theorem Canvas.hit_plot (p : Canvas) (r c : Nat) : (p.plot r c).hit = (p.hit || p.fb.get r c) := by
  by_cases h : r < 32 ∧ c < 64
  · simp [Canvas.plot, h]
  · simp [Canvas.plot, h, Framebuffer.get_outside _ h]

/-- The pixels after the sprite columns `j .. j + k - 1` of one byte (R171). -/
theorem Canvas.get_drawBits (p : Canvas) (r c0 : Nat) (b : Byte) (j k r' c' : Nat) :
    (p.drawBits r c0 b j k).fb.get r' c' =
      (p.fb.get r' c' ^^ (decide (r' = r ∧ r < 32 ∧ c' < 64 ∧ c0 + j ≤ c' ∧ c' < c0 + j + k) &&
        b.getLsbD (7 - (c' - c0)))) := by
  induction k generalizing p j with
  | zero => simp [Canvas.drawBits, show ¬ (c0 + j ≤ c' ∧ c' < c0 + j) by omega]
  | succ k ih =>
    rw [Canvas.drawBits, ih]
    have hplot : (if b.getLsbD (7 - j) then p.plot r (c0 + j) else p).fb.get r' c' =
        (p.fb.get r' c' ^^ (decide (r' = r ∧ r < 32 ∧ c' < 64 ∧ c' = c0 + j) && b.getLsbD (7 - (c' - c0)))) := by
      by_cases hc : c' = c0 + j
      · have hsub : c' - c0 = j := by omega
        rw [hsub]
        by_cases hb : b.getLsbD (7 - j) = true
        · simp only [hb, if_true, Canvas.get_plot, Bool.and_true]
          congr 2
          simp only [hc, eq_iff_iff]
          tauto
        · simp [hb]
      · have hn : ¬ (r' = r ∧ c' = c0 + j ∧ r < 32 ∧ c0 + j < 64) := fun h => hc h.2.1
        by_cases hb : b.getLsbD (7 - j) = true <;> simp [hb, Canvas.get_plot, hc]
    rw [hplot, Bool.xor_assoc]
    congr 1
    by_cases hb : b.getLsbD (7 - (c' - c0)) = true
    · by_cases hbase : r' = r ∧ r < 32 ∧ c' < 64
      · obtain ⟨h1, h2, h3⟩ := hbase
        by_cases hc : c' = c0 + j
        · simp [h1, h2, hc]
        · have : (c0 + (j + 1) ≤ c' ∧ c' < c0 + (j + 1) + k) ↔ (c0 + j ≤ c' ∧ c' < c0 + j + (k + 1)) := by omega
          simp [h1, h2, hc, this]
      · have e : ∀ q : Prop, ¬ (r' = r ∧ r < 32 ∧ c' < 64 ∧ q) := fun q h => hbase ⟨h.1, h.2.1, h.2.2.1⟩
        simp [e]
    · simp [hb]

/-- The collisions of the sprite columns `j .. j + k - 1` of one byte (R173). -/
theorem Canvas.hit_drawBits (p : Canvas) (r c0 : Nat) (b : Byte) (j k : Nat) :
    (p.drawBits r c0 b j k).hit = true ↔ p.hit = true ∨
      ∃ c, c0 + j ≤ c ∧ c < c0 + j + k ∧ b.getLsbD (7 - (c - c0)) = true ∧ p.fb.get r c = true := by
  induction k generalizing p j with
  | zero =>
    simp only [Canvas.drawBits]
    refine ⟨Or.inl, fun h => h.elim id fun ⟨c, h1, h2, _⟩ => ?_⟩
    omega
  | succ k ih =>
    rw [Canvas.drawBits, ih]
    have hget : ∀ c, c0 + (j + 1) ≤ c →
        (if b.getLsbD (7 - j) then p.plot r (c0 + j) else p).fb.get r c = p.fb.get r c := fun c hc => by
      have hne : c ≠ c0 + j := by omega
      by_cases hb : b.getLsbD (7 - j) = true <;> simp [hb, Canvas.get_plot, hne]
    have hhit : (if b.getLsbD (7 - j) then p.plot r (c0 + j) else p).hit = true ↔
        p.hit = true ∨ (b.getLsbD (7 - j) = true ∧ p.fb.get r (c0 + j) = true) := by
      by_cases hb : b.getLsbD (7 - j) = true <;> simp [hb, Canvas.hit_plot]
    rw [hhit, or_assoc]
    refine or_congr_right ⟨?_, ?_⟩
    · rintro (⟨hb, hg⟩ | ⟨c, h1, h2, hb, hg⟩)
      · exact ⟨c0 + j, by omega, by omega, by rwa [Nat.add_sub_cancel_left], hg⟩
      · exact ⟨c, by omega, by omega, hb, hget c h1 ▸ hg⟩
    · rintro ⟨c, h1, h2, hb, hg⟩
      by_cases hc : c = c0 + j
      · subst hc
        exact .inl ⟨by rwa [Nat.add_sub_cancel_left] at hb, hg⟩
      · exact .inr ⟨c, by omega, by omega, hb, (hget c (by omega)).trans hg⟩

theorem Canvas.get_drawByte (p : Canvas) (r c0 : Nat) (b : Byte) (r' c' : Nat) :
    (p.drawByte r c0 b).fb.get r' c' =
      (p.fb.get r' c' ^^ (decide (r' = r ∧ r < 32 ∧ c' < 64 ∧ c0 ≤ c' ∧ c' < c0 + 8) &&
        b.getLsbD (7 - (c' - c0)))) := by
  simpa only [Canvas.drawByte, Nat.add_zero] using Canvas.get_drawBits p r c0 b 0 8 r' c'

theorem Canvas.hit_drawByte (p : Canvas) (r c0 : Nat) (b : Byte) :
    (p.drawByte r c0 b).hit = true ↔ p.hit = true ∨
      ∃ c, c0 ≤ c ∧ c < c0 + 8 ∧ b.getLsbD (7 - (c - c0)) = true ∧ p.fb.get r c = true := by
  simpa only [Canvas.drawByte, Nat.add_zero] using Canvas.hit_drawBits p r c0 b 0 8

/-- The pixels after a whole sprite: every visible set sprite bit has inverted its pixel, nothing else has changed
(R171, R172). -/
theorem Canvas.get_drawRows (p : Canvas) (r0 c0 : Nat) (bs : List Byte) (r c : Nat) :
    (p.drawRows r0 c0 bs).fb.get r c =
      (p.fb.get r c ^^ (decide (r < 32 ∧ c < 64 ∧ r0 ≤ r ∧ r < r0 + bs.length ∧ c0 ≤ c ∧ c < c0 + 8) &&
        (bs.getD (r - r0) 0#8).getLsbD (7 - (c - c0)))) := by
  induction bs generalizing p r0 with
  | nil => simp [Canvas.drawRows]
  | cons b rest ih =>
    rw [Canvas.drawRows, ih, Canvas.get_drawByte, Bool.xor_assoc, List.length_cons]
    congr 1
    by_cases hr : r = r0
    · subst hr
      have h1 : ¬ (r < 32 ∧ c < 64 ∧ r + 1 ≤ r ∧ r < r + 1 + rest.length ∧ c0 ≤ c ∧ c < c0 + 8) := by omega
      have h2 : (r < 32 ∧ c < 64 ∧ r ≤ r ∧ r < r + (rest.length + 1) ∧ c0 ≤ c ∧ c < c0 + 8) ↔
          (r = r ∧ r < 32 ∧ c < 64 ∧ c0 ≤ c ∧ c < c0 + 8) := by omega
      simp only [h1, h2, decide_false, Bool.false_and, Bool.xor_false, Nat.sub_self, List.getD_cons_zero]
    · by_cases hlt : r < r0
      · have h1 : ¬ (r < 32 ∧ c < 64 ∧ r0 + 1 ≤ r ∧ r < r0 + 1 + rest.length ∧ c0 ≤ c ∧ c < c0 + 8) := by omega
        have h2 : ¬ (r < 32 ∧ c < 64 ∧ r0 ≤ r ∧ r < r0 + (rest.length + 1) ∧ c0 ≤ c ∧ c < c0 + 8) := by omega
        simp only [h1, h2, hr, decide_false, false_and, Bool.false_and, Bool.xor_false]
      · have hsub : r - r0 = (r - (r0 + 1)) + 1 := by omega
        have h2 : (r < 32 ∧ c < 64 ∧ r0 ≤ r ∧ r < r0 + (rest.length + 1) ∧ c0 ≤ c ∧ c < c0 + 8) ↔
            (r < 32 ∧ c < 64 ∧ r0 + 1 ≤ r ∧ r < r0 + 1 + rest.length ∧ c0 ≤ c ∧ c < c0 + 8) := by omega
        rw [hsub, List.getD_cons_succ]
        simp only [h2, hr, decide_false, false_and, Bool.false_and, Bool.false_xor]

/-- A whole sprite reports a collision exactly when some visible set sprite bit falls on a pixel that was on (R173). -/
theorem Canvas.hit_drawRows (p : Canvas) (r0 c0 : Nat) (bs : List Byte) :
    (p.drawRows r0 c0 bs).hit = true ↔ p.hit = true ∨
      ∃ r c, r0 ≤ r ∧ r < r0 + bs.length ∧ c0 ≤ c ∧ c < c0 + 8 ∧
        (bs.getD (r - r0) 0#8).getLsbD (7 - (c - c0)) = true ∧ p.fb.get r c = true := by
  induction bs generalizing p r0 with
  | nil =>
    simp only [Canvas.drawRows]
    refine ⟨Or.inl, fun h => h.elim id fun ⟨r, c, h1, h2, _⟩ => ?_⟩
    simp only [List.length_nil] at h2
    omega
  | cons b rest ih =>
    rw [Canvas.drawRows, ih, Canvas.hit_drawByte, or_assoc, List.length_cons]
    have hget : ∀ r c, r0 + 1 ≤ r → (p.drawByte r0 c0 b).fb.get r c = p.fb.get r c := fun r c hr => by
      have hne : r ≠ r0 := by omega
      simp [Canvas.get_drawByte, hne]
    refine or_congr_right ⟨?_, ?_⟩
    · rintro (⟨c, h1, h2, hb, hg⟩ | ⟨r, c, h1, h2, h3, h4, hb, hg⟩)
      · exact ⟨r0, c, Nat.le_refl r0, by omega, h1, h2, by simpa using hb, hg⟩
      · refine ⟨r, c, by omega, by omega, h3, h4, ?_, hget r c h1 ▸ hg⟩
        rwa [show r - r0 = (r - (r0 + 1)) + 1 by omega, List.getD_cons_succ]
    · rintro ⟨r, c, h1, h2, h3, h4, hb, hg⟩
      by_cases hr : r = r0
      · subst hr
        exact .inl ⟨c, h3, h4, by simpa using hb, hg⟩
      · refine .inr ⟨r, c, by omega, by omega, h3, h4, ?_, (hget r c (by omega)).trans hg⟩
        rwa [show r - r0 = (r - (r0 + 1)) + 1 by omega, List.getD_cons_succ] at hb

end Sys2Proof.Machine
end

