-- ==== Sys2Proof/Laws/State.lean ====
section
/-! SUPPORT. What each field of the state is after each named update: one lemma per field per update, each true by
unfolding the update, so that no later proof unfolds one. -/

namespace Sys2Proof.Machine

@[simp] theorem State.setI_x (s : State) (v : Word) : (s.setI v).x = s.x := rfl
@[simp] theorem State.setI_i (s : State) (v : Word) : (s.setI v).i = v := rfl
@[simp] theorem State.setI_pc (s : State) (v : Word) : (s.setI v).pc = s.pc := rfl
@[simp] theorem State.setI_mem (s : State) (v : Word) : (s.setI v).mem = s.mem := rfl
@[simp] theorem State.setI_stack (s : State) (v : Word) : (s.setI v).stack = s.stack := rfl
@[simp] theorem State.setI_fb (s : State) (v : Word) : (s.setI v).fb = s.fb := rfl
@[simp] theorem State.setI_dt (s : State) (v : Word) : (s.setI v).dt = s.dt := rfl
@[simp] theorem State.setI_st (s : State) (v : Word) : (s.setI v).st = s.st := rfl
@[simp] theorem State.setI_wait (s : State) (v : Word) : (s.setI v).wait = s.wait := rfl
@[simp] theorem State.setI_keys (s : State) (v : Word) : (s.setI v).keys = s.keys := rfl
@[simp] theorem State.setI_q (s : State) (v : Word) : (s.setI v).q = s.q := rfl
@[simp] theorem State.setI_run (s : State) (v : Word) : (s.setI v).run = s.run := rfl
@[simp] theorem State.setI_budget (s : State) (v : Word) : (s.setI v).budget = s.budget := rfl
@[simp] theorem State.setI_inq (s : State) (v : Word) : (s.setI v).inq = s.inq := rfl
@[simp] theorem State.setI_inqOpen (s : State) (v : Word) : (s.setI v).inqOpen = s.inqOpen := rfl
@[simp] theorem State.setI_outq (s : State) (v : Word) : (s.setI v).outq = s.outq := rfl
@[simp] theorem State.setI_audio (s : State) (v : Word) : (s.setI v).audio = s.audio := rfl
@[simp] theorem State.setI_failure (s : State) (v : Word) : (s.setI v).failure = s.failure := rfl
@[simp] theorem State.setI_draws (s : State) (v : Word) : (s.setI v).draws = s.draws := rfl

@[simp] theorem State.setPc_x (s : State) (v : Word) : (s.setPc v).x = s.x := rfl
@[simp] theorem State.setPc_i (s : State) (v : Word) : (s.setPc v).i = s.i := rfl
@[simp] theorem State.setPc_pc (s : State) (v : Word) : (s.setPc v).pc = v := rfl
@[simp] theorem State.setPc_mem (s : State) (v : Word) : (s.setPc v).mem = s.mem := rfl
@[simp] theorem State.setPc_stack (s : State) (v : Word) : (s.setPc v).stack = s.stack := rfl
@[simp] theorem State.setPc_fb (s : State) (v : Word) : (s.setPc v).fb = s.fb := rfl
@[simp] theorem State.setPc_dt (s : State) (v : Word) : (s.setPc v).dt = s.dt := rfl
@[simp] theorem State.setPc_st (s : State) (v : Word) : (s.setPc v).st = s.st := rfl
@[simp] theorem State.setPc_wait (s : State) (v : Word) : (s.setPc v).wait = s.wait := rfl
@[simp] theorem State.setPc_keys (s : State) (v : Word) : (s.setPc v).keys = s.keys := rfl
@[simp] theorem State.setPc_q (s : State) (v : Word) : (s.setPc v).q = s.q := rfl
@[simp] theorem State.setPc_run (s : State) (v : Word) : (s.setPc v).run = s.run := rfl
@[simp] theorem State.setPc_budget (s : State) (v : Word) : (s.setPc v).budget = s.budget := rfl
@[simp] theorem State.setPc_inq (s : State) (v : Word) : (s.setPc v).inq = s.inq := rfl
@[simp] theorem State.setPc_inqOpen (s : State) (v : Word) : (s.setPc v).inqOpen = s.inqOpen := rfl
@[simp] theorem State.setPc_outq (s : State) (v : Word) : (s.setPc v).outq = s.outq := rfl
@[simp] theorem State.setPc_audio (s : State) (v : Word) : (s.setPc v).audio = s.audio := rfl
@[simp] theorem State.setPc_failure (s : State) (v : Word) : (s.setPc v).failure = s.failure := rfl
@[simp] theorem State.setPc_draws (s : State) (v : Word) : (s.setPc v).draws = s.draws := rfl

@[simp] theorem State.setMem_x (s : State) (m : Memory) : (s.setMem m).x = s.x := rfl
@[simp] theorem State.setMem_i (s : State) (m : Memory) : (s.setMem m).i = s.i := rfl
@[simp] theorem State.setMem_pc (s : State) (m : Memory) : (s.setMem m).pc = s.pc := rfl
@[simp] theorem State.setMem_mem (s : State) (m : Memory) : (s.setMem m).mem = m := rfl
@[simp] theorem State.setMem_stack (s : State) (m : Memory) : (s.setMem m).stack = s.stack := rfl
@[simp] theorem State.setMem_fb (s : State) (m : Memory) : (s.setMem m).fb = s.fb := rfl
@[simp] theorem State.setMem_dt (s : State) (m : Memory) : (s.setMem m).dt = s.dt := rfl
@[simp] theorem State.setMem_st (s : State) (m : Memory) : (s.setMem m).st = s.st := rfl
@[simp] theorem State.setMem_wait (s : State) (m : Memory) : (s.setMem m).wait = s.wait := rfl
@[simp] theorem State.setMem_keys (s : State) (m : Memory) : (s.setMem m).keys = s.keys := rfl
@[simp] theorem State.setMem_q (s : State) (m : Memory) : (s.setMem m).q = s.q := rfl
@[simp] theorem State.setMem_run (s : State) (m : Memory) : (s.setMem m).run = s.run := rfl
@[simp] theorem State.setMem_budget (s : State) (m : Memory) : (s.setMem m).budget = s.budget := rfl
@[simp] theorem State.setMem_inq (s : State) (m : Memory) : (s.setMem m).inq = s.inq := rfl
@[simp] theorem State.setMem_inqOpen (s : State) (m : Memory) : (s.setMem m).inqOpen = s.inqOpen := rfl
@[simp] theorem State.setMem_outq (s : State) (m : Memory) : (s.setMem m).outq = s.outq := rfl
@[simp] theorem State.setMem_audio (s : State) (m : Memory) : (s.setMem m).audio = s.audio := rfl
@[simp] theorem State.setMem_failure (s : State) (m : Memory) : (s.setMem m).failure = s.failure := rfl
@[simp] theorem State.setMem_draws (s : State) (m : Memory) : (s.setMem m).draws = s.draws := rfl

@[simp] theorem State.setStack_x (s : State) (l : List Word) : (s.setStack l).x = s.x := rfl
@[simp] theorem State.setStack_i (s : State) (l : List Word) : (s.setStack l).i = s.i := rfl
@[simp] theorem State.setStack_pc (s : State) (l : List Word) : (s.setStack l).pc = s.pc := rfl
@[simp] theorem State.setStack_mem (s : State) (l : List Word) : (s.setStack l).mem = s.mem := rfl
@[simp] theorem State.setStack_stack (s : State) (l : List Word) : (s.setStack l).stack = l := rfl
@[simp] theorem State.setStack_fb (s : State) (l : List Word) : (s.setStack l).fb = s.fb := rfl
@[simp] theorem State.setStack_dt (s : State) (l : List Word) : (s.setStack l).dt = s.dt := rfl
@[simp] theorem State.setStack_st (s : State) (l : List Word) : (s.setStack l).st = s.st := rfl
@[simp] theorem State.setStack_wait (s : State) (l : List Word) : (s.setStack l).wait = s.wait := rfl
@[simp] theorem State.setStack_keys (s : State) (l : List Word) : (s.setStack l).keys = s.keys := rfl
@[simp] theorem State.setStack_q (s : State) (l : List Word) : (s.setStack l).q = s.q := rfl
@[simp] theorem State.setStack_run (s : State) (l : List Word) : (s.setStack l).run = s.run := rfl
@[simp] theorem State.setStack_budget (s : State) (l : List Word) : (s.setStack l).budget = s.budget := rfl
@[simp] theorem State.setStack_inq (s : State) (l : List Word) : (s.setStack l).inq = s.inq := rfl
@[simp] theorem State.setStack_inqOpen (s : State) (l : List Word) : (s.setStack l).inqOpen = s.inqOpen := rfl
@[simp] theorem State.setStack_outq (s : State) (l : List Word) : (s.setStack l).outq = s.outq := rfl
@[simp] theorem State.setStack_audio (s : State) (l : List Word) : (s.setStack l).audio = s.audio := rfl
@[simp] theorem State.setStack_failure (s : State) (l : List Word) : (s.setStack l).failure = s.failure := rfl
@[simp] theorem State.setStack_draws (s : State) (l : List Word) : (s.setStack l).draws = s.draws := rfl

@[simp] theorem State.setFb_x (s : State) (f : Framebuffer) : (s.setFb f).x = s.x := rfl
@[simp] theorem State.setFb_i (s : State) (f : Framebuffer) : (s.setFb f).i = s.i := rfl
@[simp] theorem State.setFb_pc (s : State) (f : Framebuffer) : (s.setFb f).pc = s.pc := rfl
@[simp] theorem State.setFb_mem (s : State) (f : Framebuffer) : (s.setFb f).mem = s.mem := rfl
@[simp] theorem State.setFb_stack (s : State) (f : Framebuffer) : (s.setFb f).stack = s.stack := rfl
@[simp] theorem State.setFb_fb (s : State) (f : Framebuffer) : (s.setFb f).fb = f := rfl
@[simp] theorem State.setFb_dt (s : State) (f : Framebuffer) : (s.setFb f).dt = s.dt := rfl
@[simp] theorem State.setFb_st (s : State) (f : Framebuffer) : (s.setFb f).st = s.st := rfl
@[simp] theorem State.setFb_wait (s : State) (f : Framebuffer) : (s.setFb f).wait = s.wait := rfl
@[simp] theorem State.setFb_keys (s : State) (f : Framebuffer) : (s.setFb f).keys = s.keys := rfl
@[simp] theorem State.setFb_q (s : State) (f : Framebuffer) : (s.setFb f).q = s.q := rfl
@[simp] theorem State.setFb_run (s : State) (f : Framebuffer) : (s.setFb f).run = s.run := rfl
@[simp] theorem State.setFb_budget (s : State) (f : Framebuffer) : (s.setFb f).budget = s.budget := rfl
@[simp] theorem State.setFb_inq (s : State) (f : Framebuffer) : (s.setFb f).inq = s.inq := rfl
@[simp] theorem State.setFb_inqOpen (s : State) (f : Framebuffer) : (s.setFb f).inqOpen = s.inqOpen := rfl
@[simp] theorem State.setFb_outq (s : State) (f : Framebuffer) : (s.setFb f).outq = s.outq := rfl
@[simp] theorem State.setFb_audio (s : State) (f : Framebuffer) : (s.setFb f).audio = s.audio := rfl
@[simp] theorem State.setFb_failure (s : State) (f : Framebuffer) : (s.setFb f).failure = s.failure := rfl
@[simp] theorem State.setFb_draws (s : State) (f : Framebuffer) : (s.setFb f).draws = s.draws := rfl

@[simp] theorem State.setDt_x (s : State) (v : Byte) : (s.setDt v).x = s.x := rfl
@[simp] theorem State.setDt_i (s : State) (v : Byte) : (s.setDt v).i = s.i := rfl
@[simp] theorem State.setDt_pc (s : State) (v : Byte) : (s.setDt v).pc = s.pc := rfl
@[simp] theorem State.setDt_mem (s : State) (v : Byte) : (s.setDt v).mem = s.mem := rfl
@[simp] theorem State.setDt_stack (s : State) (v : Byte) : (s.setDt v).stack = s.stack := rfl
@[simp] theorem State.setDt_fb (s : State) (v : Byte) : (s.setDt v).fb = s.fb := rfl
@[simp] theorem State.setDt_dt (s : State) (v : Byte) : (s.setDt v).dt = v := rfl
@[simp] theorem State.setDt_st (s : State) (v : Byte) : (s.setDt v).st = s.st := rfl
@[simp] theorem State.setDt_wait (s : State) (v : Byte) : (s.setDt v).wait = s.wait := rfl
@[simp] theorem State.setDt_keys (s : State) (v : Byte) : (s.setDt v).keys = s.keys := rfl
@[simp] theorem State.setDt_q (s : State) (v : Byte) : (s.setDt v).q = s.q := rfl
@[simp] theorem State.setDt_run (s : State) (v : Byte) : (s.setDt v).run = s.run := rfl
@[simp] theorem State.setDt_budget (s : State) (v : Byte) : (s.setDt v).budget = s.budget := rfl
@[simp] theorem State.setDt_inq (s : State) (v : Byte) : (s.setDt v).inq = s.inq := rfl
@[simp] theorem State.setDt_inqOpen (s : State) (v : Byte) : (s.setDt v).inqOpen = s.inqOpen := rfl
@[simp] theorem State.setDt_outq (s : State) (v : Byte) : (s.setDt v).outq = s.outq := rfl
@[simp] theorem State.setDt_audio (s : State) (v : Byte) : (s.setDt v).audio = s.audio := rfl
@[simp] theorem State.setDt_failure (s : State) (v : Byte) : (s.setDt v).failure = s.failure := rfl
@[simp] theorem State.setDt_draws (s : State) (v : Byte) : (s.setDt v).draws = s.draws := rfl

@[simp] theorem State.setSt_x (s : State) (v : Byte) : (s.setSt v).x = s.x := rfl
@[simp] theorem State.setSt_i (s : State) (v : Byte) : (s.setSt v).i = s.i := rfl
@[simp] theorem State.setSt_pc (s : State) (v : Byte) : (s.setSt v).pc = s.pc := rfl
@[simp] theorem State.setSt_mem (s : State) (v : Byte) : (s.setSt v).mem = s.mem := rfl
@[simp] theorem State.setSt_stack (s : State) (v : Byte) : (s.setSt v).stack = s.stack := rfl
@[simp] theorem State.setSt_fb (s : State) (v : Byte) : (s.setSt v).fb = s.fb := rfl
@[simp] theorem State.setSt_dt (s : State) (v : Byte) : (s.setSt v).dt = s.dt := rfl
@[simp] theorem State.setSt_st (s : State) (v : Byte) : (s.setSt v).st = v := rfl
@[simp] theorem State.setSt_wait (s : State) (v : Byte) : (s.setSt v).wait = s.wait := rfl
@[simp] theorem State.setSt_keys (s : State) (v : Byte) : (s.setSt v).keys = s.keys := rfl
@[simp] theorem State.setSt_q (s : State) (v : Byte) : (s.setSt v).q = s.q := rfl
@[simp] theorem State.setSt_run (s : State) (v : Byte) : (s.setSt v).run = s.run := rfl
@[simp] theorem State.setSt_budget (s : State) (v : Byte) : (s.setSt v).budget = s.budget := rfl
@[simp] theorem State.setSt_inq (s : State) (v : Byte) : (s.setSt v).inq = s.inq := rfl
@[simp] theorem State.setSt_inqOpen (s : State) (v : Byte) : (s.setSt v).inqOpen = s.inqOpen := rfl
@[simp] theorem State.setSt_outq (s : State) (v : Byte) : (s.setSt v).outq = s.outq := rfl
@[simp] theorem State.setSt_audio (s : State) (v : Byte) : (s.setSt v).audio = s.audio := rfl
@[simp] theorem State.setSt_failure (s : State) (v : Byte) : (s.setSt v).failure = s.failure := rfl
@[simp] theorem State.setSt_draws (s : State) (v : Byte) : (s.setSt v).draws = s.draws := rfl

@[simp] theorem State.setWait_x (s : State) (w : WaitState) : (s.setWait w).x = s.x := rfl
@[simp] theorem State.setWait_i (s : State) (w : WaitState) : (s.setWait w).i = s.i := rfl
@[simp] theorem State.setWait_pc (s : State) (w : WaitState) : (s.setWait w).pc = s.pc := rfl
@[simp] theorem State.setWait_mem (s : State) (w : WaitState) : (s.setWait w).mem = s.mem := rfl
@[simp] theorem State.setWait_stack (s : State) (w : WaitState) : (s.setWait w).stack = s.stack := rfl
@[simp] theorem State.setWait_fb (s : State) (w : WaitState) : (s.setWait w).fb = s.fb := rfl
@[simp] theorem State.setWait_dt (s : State) (w : WaitState) : (s.setWait w).dt = s.dt := rfl
@[simp] theorem State.setWait_st (s : State) (w : WaitState) : (s.setWait w).st = s.st := rfl
@[simp] theorem State.setWait_wait (s : State) (w : WaitState) : (s.setWait w).wait = w := rfl
@[simp] theorem State.setWait_keys (s : State) (w : WaitState) : (s.setWait w).keys = s.keys := rfl
@[simp] theorem State.setWait_q (s : State) (w : WaitState) : (s.setWait w).q = s.q := rfl
@[simp] theorem State.setWait_run (s : State) (w : WaitState) : (s.setWait w).run = s.run := rfl
@[simp] theorem State.setWait_budget (s : State) (w : WaitState) : (s.setWait w).budget = s.budget := rfl
@[simp] theorem State.setWait_inq (s : State) (w : WaitState) : (s.setWait w).inq = s.inq := rfl
@[simp] theorem State.setWait_inqOpen (s : State) (w : WaitState) : (s.setWait w).inqOpen = s.inqOpen := rfl
@[simp] theorem State.setWait_outq (s : State) (w : WaitState) : (s.setWait w).outq = s.outq := rfl
@[simp] theorem State.setWait_audio (s : State) (w : WaitState) : (s.setWait w).audio = s.audio := rfl
@[simp] theorem State.setWait_failure (s : State) (w : WaitState) : (s.setWait w).failure = s.failure := rfl
@[simp] theorem State.setWait_draws (s : State) (w : WaitState) : (s.setWait w).draws = s.draws := rfl

@[simp] theorem State.setFailure_x (s : State) (f : Option Failure) : (s.setFailure f).x = s.x := rfl
@[simp] theorem State.setFailure_i (s : State) (f : Option Failure) : (s.setFailure f).i = s.i := rfl
@[simp] theorem State.setFailure_pc (s : State) (f : Option Failure) : (s.setFailure f).pc = s.pc := rfl
@[simp] theorem State.setFailure_mem (s : State) (f : Option Failure) : (s.setFailure f).mem = s.mem := rfl
@[simp] theorem State.setFailure_stack (s : State) (f : Option Failure) : (s.setFailure f).stack = s.stack := rfl
@[simp] theorem State.setFailure_fb (s : State) (f : Option Failure) : (s.setFailure f).fb = s.fb := rfl
@[simp] theorem State.setFailure_dt (s : State) (f : Option Failure) : (s.setFailure f).dt = s.dt := rfl
@[simp] theorem State.setFailure_st (s : State) (f : Option Failure) : (s.setFailure f).st = s.st := rfl
@[simp] theorem State.setFailure_wait (s : State) (f : Option Failure) : (s.setFailure f).wait = s.wait := rfl
@[simp] theorem State.setFailure_keys (s : State) (f : Option Failure) : (s.setFailure f).keys = s.keys := rfl
@[simp] theorem State.setFailure_q (s : State) (f : Option Failure) : (s.setFailure f).q = s.q := rfl
@[simp] theorem State.setFailure_run (s : State) (f : Option Failure) : (s.setFailure f).run = s.run := rfl
@[simp] theorem State.setFailure_budget (s : State) (f : Option Failure) : (s.setFailure f).budget = s.budget := rfl
@[simp] theorem State.setFailure_inq (s : State) (f : Option Failure) : (s.setFailure f).inq = s.inq := rfl
@[simp] theorem State.setFailure_inqOpen (s : State) (f : Option Failure) : (s.setFailure f).inqOpen = s.inqOpen := rfl
@[simp] theorem State.setFailure_outq (s : State) (f : Option Failure) : (s.setFailure f).outq = s.outq := rfl
@[simp] theorem State.setFailure_audio (s : State) (f : Option Failure) : (s.setFailure f).audio = s.audio := rfl
@[simp] theorem State.setFailure_failure (s : State) (f : Option Failure) : (s.setFailure f).failure = f := rfl
@[simp] theorem State.setFailure_draws (s : State) (f : Option Failure) : (s.setFailure f).draws = s.draws := rfl

@[simp] theorem State.nextDraw_x (s : State) : (s.nextDraw).x = s.x := rfl
@[simp] theorem State.nextDraw_i (s : State) : (s.nextDraw).i = s.i := rfl
@[simp] theorem State.nextDraw_pc (s : State) : (s.nextDraw).pc = s.pc := rfl
@[simp] theorem State.nextDraw_mem (s : State) : (s.nextDraw).mem = s.mem := rfl
@[simp] theorem State.nextDraw_stack (s : State) : (s.nextDraw).stack = s.stack := rfl
@[simp] theorem State.nextDraw_fb (s : State) : (s.nextDraw).fb = s.fb := rfl
@[simp] theorem State.nextDraw_dt (s : State) : (s.nextDraw).dt = s.dt := rfl
@[simp] theorem State.nextDraw_st (s : State) : (s.nextDraw).st = s.st := rfl
@[simp] theorem State.nextDraw_wait (s : State) : (s.nextDraw).wait = s.wait := rfl
@[simp] theorem State.nextDraw_keys (s : State) : (s.nextDraw).keys = s.keys := rfl
@[simp] theorem State.nextDraw_q (s : State) : (s.nextDraw).q = s.q := rfl
@[simp] theorem State.nextDraw_run (s : State) : (s.nextDraw).run = s.run := rfl
@[simp] theorem State.nextDraw_budget (s : State) : (s.nextDraw).budget = s.budget := rfl
@[simp] theorem State.nextDraw_inq (s : State) : (s.nextDraw).inq = s.inq := rfl
@[simp] theorem State.nextDraw_inqOpen (s : State) : (s.nextDraw).inqOpen = s.inqOpen := rfl
@[simp] theorem State.nextDraw_outq (s : State) : (s.nextDraw).outq = s.outq := rfl
@[simp] theorem State.nextDraw_audio (s : State) : (s.nextDraw).audio = s.audio := rfl
@[simp] theorem State.nextDraw_failure (s : State) : (s.nextDraw).failure = s.failure := rfl
@[simp] theorem State.nextDraw_draws (s : State) : (s.nextDraw).draws = s.draws + 1 := rfl

@[simp] theorem State.setRegs_x (s : State) (v : Vector Byte 16) : (s.setRegs v).x = v := rfl
@[simp] theorem State.setRegs_i (s : State) (v : Vector Byte 16) : (s.setRegs v).i = s.i := rfl
@[simp] theorem State.setRegs_pc (s : State) (v : Vector Byte 16) : (s.setRegs v).pc = s.pc := rfl
@[simp] theorem State.setRegs_mem (s : State) (v : Vector Byte 16) : (s.setRegs v).mem = s.mem := rfl
@[simp] theorem State.setRegs_stack (s : State) (v : Vector Byte 16) : (s.setRegs v).stack = s.stack := rfl
@[simp] theorem State.setRegs_fb (s : State) (v : Vector Byte 16) : (s.setRegs v).fb = s.fb := rfl
@[simp] theorem State.setRegs_dt (s : State) (v : Vector Byte 16) : (s.setRegs v).dt = s.dt := rfl
@[simp] theorem State.setRegs_st (s : State) (v : Vector Byte 16) : (s.setRegs v).st = s.st := rfl
@[simp] theorem State.setRegs_wait (s : State) (v : Vector Byte 16) : (s.setRegs v).wait = s.wait := rfl
@[simp] theorem State.setRegs_keys (s : State) (v : Vector Byte 16) : (s.setRegs v).keys = s.keys := rfl
@[simp] theorem State.setRegs_q (s : State) (v : Vector Byte 16) : (s.setRegs v).q = s.q := rfl
@[simp] theorem State.setRegs_run (s : State) (v : Vector Byte 16) : (s.setRegs v).run = s.run := rfl
@[simp] theorem State.setRegs_budget (s : State) (v : Vector Byte 16) : (s.setRegs v).budget = s.budget := rfl
@[simp] theorem State.setRegs_inq (s : State) (v : Vector Byte 16) : (s.setRegs v).inq = s.inq := rfl
@[simp] theorem State.setRegs_inqOpen (s : State) (v : Vector Byte 16) : (s.setRegs v).inqOpen = s.inqOpen := rfl
@[simp] theorem State.setRegs_outq (s : State) (v : Vector Byte 16) : (s.setRegs v).outq = s.outq := rfl
@[simp] theorem State.setRegs_audio (s : State) (v : Vector Byte 16) : (s.setRegs v).audio = s.audio := rfl
@[simp] theorem State.setRegs_failure (s : State) (v : Vector Byte 16) : (s.setRegs v).failure = s.failure := rfl
@[simp] theorem State.setRegs_draws (s : State) (v : Vector Byte 16) : (s.setRegs v).draws = s.draws := rfl

@[simp] theorem State.setReg_i (s : State) (r : RegIdx) (v : Byte) : (s.setReg r v).i = s.i := rfl
@[simp] theorem State.setReg_pc (s : State) (r : RegIdx) (v : Byte) : (s.setReg r v).pc = s.pc := rfl
@[simp] theorem State.setReg_mem (s : State) (r : RegIdx) (v : Byte) : (s.setReg r v).mem = s.mem := rfl
@[simp] theorem State.setReg_stack (s : State) (r : RegIdx) (v : Byte) : (s.setReg r v).stack = s.stack := rfl
@[simp] theorem State.setReg_fb (s : State) (r : RegIdx) (v : Byte) : (s.setReg r v).fb = s.fb := rfl
@[simp] theorem State.setReg_dt (s : State) (r : RegIdx) (v : Byte) : (s.setReg r v).dt = s.dt := rfl
@[simp] theorem State.setReg_st (s : State) (r : RegIdx) (v : Byte) : (s.setReg r v).st = s.st := rfl
@[simp] theorem State.setReg_wait (s : State) (r : RegIdx) (v : Byte) : (s.setReg r v).wait = s.wait := rfl
@[simp] theorem State.setReg_keys (s : State) (r : RegIdx) (v : Byte) : (s.setReg r v).keys = s.keys := rfl
@[simp] theorem State.setReg_q (s : State) (r : RegIdx) (v : Byte) : (s.setReg r v).q = s.q := rfl
@[simp] theorem State.setReg_run (s : State) (r : RegIdx) (v : Byte) : (s.setReg r v).run = s.run := rfl
@[simp] theorem State.setReg_budget (s : State) (r : RegIdx) (v : Byte) : (s.setReg r v).budget = s.budget := rfl
@[simp] theorem State.setReg_inq (s : State) (r : RegIdx) (v : Byte) : (s.setReg r v).inq = s.inq := rfl
@[simp] theorem State.setReg_inqOpen (s : State) (r : RegIdx) (v : Byte) : (s.setReg r v).inqOpen = s.inqOpen := rfl
@[simp] theorem State.setReg_outq (s : State) (r : RegIdx) (v : Byte) : (s.setReg r v).outq = s.outq := rfl
@[simp] theorem State.setReg_audio (s : State) (r : RegIdx) (v : Byte) : (s.setReg r v).audio = s.audio := rfl
@[simp] theorem State.setReg_failure (s : State) (r : RegIdx) (v : Byte) : (s.setReg r v).failure = s.failure := rfl
@[simp] theorem State.setReg_draws (s : State) (r : RegIdx) (v : Byte) : (s.setReg r v).draws = s.draws := rfl

@[simp] theorem State.setFlag_i (s : State) (b : Bool) : (s.setFlag b).i = s.i := rfl
@[simp] theorem State.setFlag_pc (s : State) (b : Bool) : (s.setFlag b).pc = s.pc := rfl
@[simp] theorem State.setFlag_mem (s : State) (b : Bool) : (s.setFlag b).mem = s.mem := rfl
@[simp] theorem State.setFlag_stack (s : State) (b : Bool) : (s.setFlag b).stack = s.stack := rfl
@[simp] theorem State.setFlag_fb (s : State) (b : Bool) : (s.setFlag b).fb = s.fb := rfl
@[simp] theorem State.setFlag_dt (s : State) (b : Bool) : (s.setFlag b).dt = s.dt := rfl
@[simp] theorem State.setFlag_st (s : State) (b : Bool) : (s.setFlag b).st = s.st := rfl
@[simp] theorem State.setFlag_wait (s : State) (b : Bool) : (s.setFlag b).wait = s.wait := rfl
@[simp] theorem State.setFlag_keys (s : State) (b : Bool) : (s.setFlag b).keys = s.keys := rfl
@[simp] theorem State.setFlag_q (s : State) (b : Bool) : (s.setFlag b).q = s.q := rfl
@[simp] theorem State.setFlag_run (s : State) (b : Bool) : (s.setFlag b).run = s.run := rfl
@[simp] theorem State.setFlag_budget (s : State) (b : Bool) : (s.setFlag b).budget = s.budget := rfl
@[simp] theorem State.setFlag_inq (s : State) (b : Bool) : (s.setFlag b).inq = s.inq := rfl
@[simp] theorem State.setFlag_inqOpen (s : State) (b : Bool) : (s.setFlag b).inqOpen = s.inqOpen := rfl
@[simp] theorem State.setFlag_outq (s : State) (b : Bool) : (s.setFlag b).outq = s.outq := rfl
@[simp] theorem State.setFlag_audio (s : State) (b : Bool) : (s.setFlag b).audio = s.audio := rfl
@[simp] theorem State.setFlag_failure (s : State) (b : Bool) : (s.setFlag b).failure = s.failure := rfl
@[simp] theorem State.setFlag_draws (s : State) (b : Bool) : (s.setFlag b).draws = s.draws := rfl

@[simp] theorem State.setResultAndFlag_i (s : State) (r : RegIdx) (v : Byte) (b : Bool) : (s.setResultAndFlag r v b).i = s.i := rfl
@[simp] theorem State.setResultAndFlag_pc (s : State) (r : RegIdx) (v : Byte) (b : Bool) : (s.setResultAndFlag r v b).pc = s.pc := rfl
@[simp] theorem State.setResultAndFlag_mem (s : State) (r : RegIdx) (v : Byte) (b : Bool) : (s.setResultAndFlag r v b).mem = s.mem := rfl
@[simp] theorem State.setResultAndFlag_stack (s : State) (r : RegIdx) (v : Byte) (b : Bool) : (s.setResultAndFlag r v b).stack = s.stack := rfl
@[simp] theorem State.setResultAndFlag_fb (s : State) (r : RegIdx) (v : Byte) (b : Bool) : (s.setResultAndFlag r v b).fb = s.fb := rfl
@[simp] theorem State.setResultAndFlag_dt (s : State) (r : RegIdx) (v : Byte) (b : Bool) : (s.setResultAndFlag r v b).dt = s.dt := rfl
@[simp] theorem State.setResultAndFlag_st (s : State) (r : RegIdx) (v : Byte) (b : Bool) : (s.setResultAndFlag r v b).st = s.st := rfl
@[simp] theorem State.setResultAndFlag_wait (s : State) (r : RegIdx) (v : Byte) (b : Bool) : (s.setResultAndFlag r v b).wait = s.wait := rfl
@[simp] theorem State.setResultAndFlag_keys (s : State) (r : RegIdx) (v : Byte) (b : Bool) : (s.setResultAndFlag r v b).keys = s.keys := rfl
@[simp] theorem State.setResultAndFlag_q (s : State) (r : RegIdx) (v : Byte) (b : Bool) : (s.setResultAndFlag r v b).q = s.q := rfl
@[simp] theorem State.setResultAndFlag_run (s : State) (r : RegIdx) (v : Byte) (b : Bool) : (s.setResultAndFlag r v b).run = s.run := rfl
@[simp] theorem State.setResultAndFlag_budget (s : State) (r : RegIdx) (v : Byte) (b : Bool) : (s.setResultAndFlag r v b).budget = s.budget := rfl
@[simp] theorem State.setResultAndFlag_inq (s : State) (r : RegIdx) (v : Byte) (b : Bool) : (s.setResultAndFlag r v b).inq = s.inq := rfl
@[simp] theorem State.setResultAndFlag_inqOpen (s : State) (r : RegIdx) (v : Byte) (b : Bool) : (s.setResultAndFlag r v b).inqOpen = s.inqOpen := rfl
@[simp] theorem State.setResultAndFlag_outq (s : State) (r : RegIdx) (v : Byte) (b : Bool) : (s.setResultAndFlag r v b).outq = s.outq := rfl
@[simp] theorem State.setResultAndFlag_audio (s : State) (r : RegIdx) (v : Byte) (b : Bool) : (s.setResultAndFlag r v b).audio = s.audio := rfl
@[simp] theorem State.setResultAndFlag_failure (s : State) (r : RegIdx) (v : Byte) (b : Bool) : (s.setResultAndFlag r v b).failure = s.failure := rfl
@[simp] theorem State.setResultAndFlag_draws (s : State) (r : RegIdx) (v : Byte) (b : Bool) : (s.setResultAndFlag r v b).draws = s.draws := rfl

@[simp] theorem State.rewind_x (s : State) : (s.rewind).x = s.x := rfl
@[simp] theorem State.rewind_i (s : State) : (s.rewind).i = s.i := rfl
@[simp] theorem State.rewind_pc (s : State) : (s.rewind).pc = s.pc - 2#16 := rfl
@[simp] theorem State.rewind_mem (s : State) : (s.rewind).mem = s.mem := rfl
@[simp] theorem State.rewind_stack (s : State) : (s.rewind).stack = s.stack := rfl
@[simp] theorem State.rewind_fb (s : State) : (s.rewind).fb = s.fb := rfl
@[simp] theorem State.rewind_dt (s : State) : (s.rewind).dt = s.dt := rfl
@[simp] theorem State.rewind_st (s : State) : (s.rewind).st = s.st := rfl
@[simp] theorem State.rewind_wait (s : State) : (s.rewind).wait = s.wait := rfl
@[simp] theorem State.rewind_keys (s : State) : (s.rewind).keys = s.keys := rfl
@[simp] theorem State.rewind_q (s : State) : (s.rewind).q = s.q := rfl
@[simp] theorem State.rewind_run (s : State) : (s.rewind).run = s.run := rfl
@[simp] theorem State.rewind_budget (s : State) : (s.rewind).budget = s.budget := rfl
@[simp] theorem State.rewind_inq (s : State) : (s.rewind).inq = s.inq := rfl
@[simp] theorem State.rewind_inqOpen (s : State) : (s.rewind).inqOpen = s.inqOpen := rfl
@[simp] theorem State.rewind_outq (s : State) : (s.rewind).outq = s.outq := rfl
@[simp] theorem State.rewind_audio (s : State) : (s.rewind).audio = s.audio := rfl
@[simp] theorem State.rewind_failure (s : State) : (s.rewind).failure = s.failure := rfl
@[simp] theorem State.rewind_draws (s : State) : (s.rewind).draws = s.draws := rfl

@[simp] theorem State.push_x (s : State) (v : Word) : (s.push v).x = s.x := rfl
@[simp] theorem State.push_i (s : State) (v : Word) : (s.push v).i = s.i := rfl
@[simp] theorem State.push_pc (s : State) (v : Word) : (s.push v).pc = s.pc := rfl
@[simp] theorem State.push_mem (s : State) (v : Word) : (s.push v).mem = s.mem := rfl
@[simp] theorem State.push_stack (s : State) (v : Word) : (s.push v).stack = v :: s.stack := rfl
@[simp] theorem State.push_fb (s : State) (v : Word) : (s.push v).fb = s.fb := rfl
@[simp] theorem State.push_dt (s : State) (v : Word) : (s.push v).dt = s.dt := rfl
@[simp] theorem State.push_st (s : State) (v : Word) : (s.push v).st = s.st := rfl
@[simp] theorem State.push_wait (s : State) (v : Word) : (s.push v).wait = s.wait := rfl
@[simp] theorem State.push_keys (s : State) (v : Word) : (s.push v).keys = s.keys := rfl
@[simp] theorem State.push_q (s : State) (v : Word) : (s.push v).q = s.q := rfl
@[simp] theorem State.push_run (s : State) (v : Word) : (s.push v).run = s.run := rfl
@[simp] theorem State.push_budget (s : State) (v : Word) : (s.push v).budget = s.budget := rfl
@[simp] theorem State.push_inq (s : State) (v : Word) : (s.push v).inq = s.inq := rfl
@[simp] theorem State.push_inqOpen (s : State) (v : Word) : (s.push v).inqOpen = s.inqOpen := rfl
@[simp] theorem State.push_outq (s : State) (v : Word) : (s.push v).outq = s.outq := rfl
@[simp] theorem State.push_audio (s : State) (v : Word) : (s.push v).audio = s.audio := rfl
@[simp] theorem State.push_failure (s : State) (v : Word) : (s.push v).failure = s.failure := rfl
@[simp] theorem State.push_draws (s : State) (v : Word) : (s.push v).draws = s.draws := rfl

@[simp] theorem State.store_x (s : State) (a : Nat) (bs : List Byte) : (s.store a bs).x = s.x := rfl
@[simp] theorem State.store_i (s : State) (a : Nat) (bs : List Byte) : (s.store a bs).i = s.i := rfl
@[simp] theorem State.store_pc (s : State) (a : Nat) (bs : List Byte) : (s.store a bs).pc = s.pc := rfl
@[simp] theorem State.store_mem (s : State) (a : Nat) (bs : List Byte) : (s.store a bs).mem = s.mem.writeBytes a bs := rfl
@[simp] theorem State.store_stack (s : State) (a : Nat) (bs : List Byte) : (s.store a bs).stack = s.stack := rfl
@[simp] theorem State.store_fb (s : State) (a : Nat) (bs : List Byte) : (s.store a bs).fb = s.fb := rfl
@[simp] theorem State.store_dt (s : State) (a : Nat) (bs : List Byte) : (s.store a bs).dt = s.dt := rfl
@[simp] theorem State.store_st (s : State) (a : Nat) (bs : List Byte) : (s.store a bs).st = s.st := rfl
@[simp] theorem State.store_wait (s : State) (a : Nat) (bs : List Byte) : (s.store a bs).wait = s.wait := rfl
@[simp] theorem State.store_keys (s : State) (a : Nat) (bs : List Byte) : (s.store a bs).keys = s.keys := rfl
@[simp] theorem State.store_q (s : State) (a : Nat) (bs : List Byte) : (s.store a bs).q = s.q := rfl
@[simp] theorem State.store_run (s : State) (a : Nat) (bs : List Byte) : (s.store a bs).run = s.run := rfl
@[simp] theorem State.store_budget (s : State) (a : Nat) (bs : List Byte) : (s.store a bs).budget = s.budget := rfl
@[simp] theorem State.store_inq (s : State) (a : Nat) (bs : List Byte) : (s.store a bs).inq = s.inq := rfl
@[simp] theorem State.store_inqOpen (s : State) (a : Nat) (bs : List Byte) : (s.store a bs).inqOpen = s.inqOpen := rfl
@[simp] theorem State.store_outq (s : State) (a : Nat) (bs : List Byte) : (s.store a bs).outq = s.outq := rfl
@[simp] theorem State.store_audio (s : State) (a : Nat) (bs : List Byte) : (s.store a bs).audio = s.audio := rfl
@[simp] theorem State.store_failure (s : State) (a : Nat) (bs : List Byte) : (s.store a bs).failure = s.failure := rfl
@[simp] theorem State.store_draws (s : State) (a : Nat) (bs : List Byte) : (s.store a bs).draws = s.draws := rfl

@[simp] theorem State.fail_x (s : State) (k : FailureKind) (a w : Word) : (s.fail k a w).x = s.x := rfl
@[simp] theorem State.fail_i (s : State) (k : FailureKind) (a w : Word) : (s.fail k a w).i = s.i := rfl
@[simp] theorem State.fail_pc (s : State) (k : FailureKind) (a w : Word) : (s.fail k a w).pc = s.pc := rfl
@[simp] theorem State.fail_mem (s : State) (k : FailureKind) (a w : Word) : (s.fail k a w).mem = s.mem := rfl
@[simp] theorem State.fail_stack (s : State) (k : FailureKind) (a w : Word) : (s.fail k a w).stack = s.stack := rfl
@[simp] theorem State.fail_fb (s : State) (k : FailureKind) (a w : Word) : (s.fail k a w).fb = s.fb := rfl
@[simp] theorem State.fail_dt (s : State) (k : FailureKind) (a w : Word) : (s.fail k a w).dt = s.dt := rfl
@[simp] theorem State.fail_st (s : State) (k : FailureKind) (a w : Word) : (s.fail k a w).st = s.st := rfl
@[simp] theorem State.fail_wait (s : State) (k : FailureKind) (a w : Word) : (s.fail k a w).wait = s.wait := rfl
@[simp] theorem State.fail_keys (s : State) (k : FailureKind) (a w : Word) : (s.fail k a w).keys = s.keys := rfl
@[simp] theorem State.fail_q (s : State) (k : FailureKind) (a w : Word) : (s.fail k a w).q = s.q := rfl
@[simp] theorem State.fail_run (s : State) (k : FailureKind) (a w : Word) : (s.fail k a w).run = s.run := rfl
@[simp] theorem State.fail_budget (s : State) (k : FailureKind) (a w : Word) : (s.fail k a w).budget = s.budget := rfl
@[simp] theorem State.fail_inq (s : State) (k : FailureKind) (a w : Word) : (s.fail k a w).inq = s.inq := rfl
@[simp] theorem State.fail_inqOpen (s : State) (k : FailureKind) (a w : Word) : (s.fail k a w).inqOpen = s.inqOpen := rfl
@[simp] theorem State.fail_outq (s : State) (k : FailureKind) (a w : Word) : (s.fail k a w).outq = s.outq := rfl
@[simp] theorem State.fail_audio (s : State) (k : FailureKind) (a w : Word) : (s.fail k a w).audio = s.audio := rfl
@[simp] theorem State.fail_failure (s : State) (k : FailureKind) (a w : Word) : (s.fail k a w).failure = some ⟨k, a, w⟩ := rfl
@[simp] theorem State.fail_draws (s : State) (k : FailureKind) (a w : Word) : (s.fail k a w).draws = s.draws := rfl

@[simp] theorem State.raise_x (s : State) (k : FailureKind) (n : Instr) : (s.raise k n).x = s.x := rfl
@[simp] theorem State.raise_i (s : State) (k : FailureKind) (n : Instr) : (s.raise k n).i = s.i := rfl
@[simp] theorem State.raise_pc (s : State) (k : FailureKind) (n : Instr) : (s.raise k n).pc = s.pc := rfl
@[simp] theorem State.raise_mem (s : State) (k : FailureKind) (n : Instr) : (s.raise k n).mem = s.mem := rfl
@[simp] theorem State.raise_stack (s : State) (k : FailureKind) (n : Instr) : (s.raise k n).stack = s.stack := rfl
@[simp] theorem State.raise_fb (s : State) (k : FailureKind) (n : Instr) : (s.raise k n).fb = s.fb := rfl
@[simp] theorem State.raise_dt (s : State) (k : FailureKind) (n : Instr) : (s.raise k n).dt = s.dt := rfl
@[simp] theorem State.raise_st (s : State) (k : FailureKind) (n : Instr) : (s.raise k n).st = s.st := rfl
@[simp] theorem State.raise_wait (s : State) (k : FailureKind) (n : Instr) : (s.raise k n).wait = s.wait := rfl
@[simp] theorem State.raise_keys (s : State) (k : FailureKind) (n : Instr) : (s.raise k n).keys = s.keys := rfl
@[simp] theorem State.raise_q (s : State) (k : FailureKind) (n : Instr) : (s.raise k n).q = s.q := rfl
@[simp] theorem State.raise_run (s : State) (k : FailureKind) (n : Instr) : (s.raise k n).run = s.run := rfl
@[simp] theorem State.raise_budget (s : State) (k : FailureKind) (n : Instr) : (s.raise k n).budget = s.budget := rfl
@[simp] theorem State.raise_inq (s : State) (k : FailureKind) (n : Instr) : (s.raise k n).inq = s.inq := rfl
@[simp] theorem State.raise_inqOpen (s : State) (k : FailureKind) (n : Instr) : (s.raise k n).inqOpen = s.inqOpen := rfl
@[simp] theorem State.raise_outq (s : State) (k : FailureKind) (n : Instr) : (s.raise k n).outq = s.outq := rfl
@[simp] theorem State.raise_audio (s : State) (k : FailureKind) (n : Instr) : (s.raise k n).audio = s.audio := rfl
@[simp] theorem State.raise_failure (s : State) (k : FailureKind) (n : Instr) : (s.raise k n).failure = some ⟨k, s.pc - 2#16, encode n⟩ := rfl
@[simp] theorem State.raise_draws (s : State) (k : FailureKind) (n : Instr) : (s.raise k n).draws = s.draws := rfl

@[simp] theorem State.emit_x (s : State) (r : Response) : (s.emit r).x = s.x := rfl
@[simp] theorem State.emit_i (s : State) (r : Response) : (s.emit r).i = s.i := rfl
@[simp] theorem State.emit_pc (s : State) (r : Response) : (s.emit r).pc = s.pc := rfl
@[simp] theorem State.emit_mem (s : State) (r : Response) : (s.emit r).mem = s.mem := rfl
@[simp] theorem State.emit_stack (s : State) (r : Response) : (s.emit r).stack = s.stack := rfl
@[simp] theorem State.emit_fb (s : State) (r : Response) : (s.emit r).fb = s.fb := rfl
@[simp] theorem State.emit_dt (s : State) (r : Response) : (s.emit r).dt = s.dt := rfl
@[simp] theorem State.emit_st (s : State) (r : Response) : (s.emit r).st = s.st := rfl
@[simp] theorem State.emit_wait (s : State) (r : Response) : (s.emit r).wait = s.wait := rfl
@[simp] theorem State.emit_keys (s : State) (r : Response) : (s.emit r).keys = s.keys := rfl
@[simp] theorem State.emit_q (s : State) (r : Response) : (s.emit r).q = s.q := rfl
@[simp] theorem State.emit_run (s : State) (r : Response) : (s.emit r).run = s.run := rfl
@[simp] theorem State.emit_budget (s : State) (r : Response) : (s.emit r).budget = s.budget := rfl
@[simp] theorem State.emit_inq (s : State) (r : Response) : (s.emit r).inq = s.inq := rfl
@[simp] theorem State.emit_inqOpen (s : State) (r : Response) : (s.emit r).inqOpen = s.inqOpen := rfl
@[simp] theorem State.emit_outq (s : State) (r : Response) : (s.emit r).outq = s.outq ++ [r] := rfl
@[simp] theorem State.emit_audio (s : State) (r : Response) : (s.emit r).audio = s.audio := rfl
@[simp] theorem State.emit_failure (s : State) (r : Response) : (s.emit r).failure = s.failure := rfl
@[simp] theorem State.emit_draws (s : State) (r : Response) : (s.emit r).draws = s.draws := rfl

@[simp] theorem State.advanced_x (s : State) : (s.advanced).x = s.x := rfl
@[simp] theorem State.advanced_i (s : State) : (s.advanced).i = s.i := rfl
@[simp] theorem State.advanced_pc (s : State) : (s.advanced).pc = s.pc + 2#16 := rfl
@[simp] theorem State.advanced_mem (s : State) : (s.advanced).mem = s.mem := rfl
@[simp] theorem State.advanced_stack (s : State) : (s.advanced).stack = s.stack := rfl
@[simp] theorem State.advanced_fb (s : State) : (s.advanced).fb = s.fb := rfl
@[simp] theorem State.advanced_dt (s : State) : (s.advanced).dt = s.dt := rfl
@[simp] theorem State.advanced_st (s : State) : (s.advanced).st = s.st := rfl
@[simp] theorem State.advanced_wait (s : State) : (s.advanced).wait = s.wait := rfl
@[simp] theorem State.advanced_keys (s : State) : (s.advanced).keys = s.keys := rfl
@[simp] theorem State.advanced_q (s : State) : (s.advanced).q = s.q := rfl
@[simp] theorem State.advanced_run (s : State) : (s.advanced).run = s.run := rfl
@[simp] theorem State.advanced_budget (s : State) : (s.advanced).budget = s.budget := rfl
@[simp] theorem State.advanced_inq (s : State) : (s.advanced).inq = s.inq := rfl
@[simp] theorem State.advanced_inqOpen (s : State) : (s.advanced).inqOpen = s.inqOpen := rfl
@[simp] theorem State.advanced_outq (s : State) : (s.advanced).outq = s.outq := rfl
@[simp] theorem State.advanced_audio (s : State) : (s.advanced).audio = s.audio := rfl
@[simp] theorem State.advanced_failure (s : State) : (s.advanced).failure = none := rfl
@[simp] theorem State.advanced_draws (s : State) : (s.advanced).draws = s.draws := rfl

@[simp] theorem State.updateAudio_x (s : State) : (s.updateAudio).x = s.x := rfl
@[simp] theorem State.updateAudio_i (s : State) : (s.updateAudio).i = s.i := rfl
@[simp] theorem State.updateAudio_pc (s : State) : (s.updateAudio).pc = s.pc := rfl
@[simp] theorem State.updateAudio_mem (s : State) : (s.updateAudio).mem = s.mem := rfl
@[simp] theorem State.updateAudio_stack (s : State) : (s.updateAudio).stack = s.stack := rfl
@[simp] theorem State.updateAudio_fb (s : State) : (s.updateAudio).fb = s.fb := rfl
@[simp] theorem State.updateAudio_dt (s : State) : (s.updateAudio).dt = s.dt := rfl
@[simp] theorem State.updateAudio_st (s : State) : (s.updateAudio).st = s.st := rfl
@[simp] theorem State.updateAudio_wait (s : State) : (s.updateAudio).wait = s.wait := rfl
@[simp] theorem State.updateAudio_keys (s : State) : (s.updateAudio).keys = s.keys := rfl
@[simp] theorem State.updateAudio_q (s : State) : (s.updateAudio).q = s.q := rfl
@[simp] theorem State.updateAudio_run (s : State) : (s.updateAudio).run = s.run := rfl
@[simp] theorem State.updateAudio_budget (s : State) : (s.updateAudio).budget = s.budget := rfl
@[simp] theorem State.updateAudio_inq (s : State) : (s.updateAudio).inq = s.inq := rfl
@[simp] theorem State.updateAudio_inqOpen (s : State) : (s.updateAudio).inqOpen = s.inqOpen := rfl
@[simp] theorem State.updateAudio_outq (s : State) : (s.updateAudio).outq = s.outq := rfl
@[simp] theorem State.updateAudio_audio (s : State) : (s.updateAudio).audio = audioLevel s.st := rfl
@[simp] theorem State.updateAudio_failure (s : State) : (s.updateAudio).failure = s.failure := rfl
@[simp] theorem State.updateAudio_draws (s : State) : (s.updateAudio).draws = s.draws := rfl

/-! ### Registers and bytes through the updates that do not touch them -/

@[simp] theorem State.setI_reg (s : State) (v : Word) (p : RegIdx) : (s.setI v).reg p = s.reg p := rfl
@[simp] theorem State.setI_byteAt (s : State) (v : Word) (p : Nat) : (s.setI v).byteAt p = s.byteAt p := rfl
@[simp] theorem State.setPc_reg (s : State) (v : Word) (p : RegIdx) : (s.setPc v).reg p = s.reg p := rfl
@[simp] theorem State.setPc_byteAt (s : State) (v : Word) (p : Nat) : (s.setPc v).byteAt p = s.byteAt p := rfl
@[simp] theorem State.setMem_reg (s : State) (m : Memory) (p : RegIdx) : (s.setMem m).reg p = s.reg p := rfl
@[simp] theorem State.setStack_reg (s : State) (l : List Word) (p : RegIdx) : (s.setStack l).reg p = s.reg p := rfl
@[simp] theorem State.setStack_byteAt (s : State) (l : List Word) (p : Nat) : (s.setStack l).byteAt p = s.byteAt p := rfl
@[simp] theorem State.setFb_reg (s : State) (f : Framebuffer) (p : RegIdx) : (s.setFb f).reg p = s.reg p := rfl
@[simp] theorem State.setFb_byteAt (s : State) (f : Framebuffer) (p : Nat) : (s.setFb f).byteAt p = s.byteAt p := rfl
@[simp] theorem State.setDt_reg (s : State) (v : Byte) (p : RegIdx) : (s.setDt v).reg p = s.reg p := rfl
@[simp] theorem State.setDt_byteAt (s : State) (v : Byte) (p : Nat) : (s.setDt v).byteAt p = s.byteAt p := rfl
@[simp] theorem State.setSt_reg (s : State) (v : Byte) (p : RegIdx) : (s.setSt v).reg p = s.reg p := rfl
@[simp] theorem State.setSt_byteAt (s : State) (v : Byte) (p : Nat) : (s.setSt v).byteAt p = s.byteAt p := rfl
@[simp] theorem State.setWait_reg (s : State) (w : WaitState) (p : RegIdx) : (s.setWait w).reg p = s.reg p := rfl
@[simp] theorem State.setWait_byteAt (s : State) (w : WaitState) (p : Nat) : (s.setWait w).byteAt p = s.byteAt p := rfl
@[simp] theorem State.setFailure_reg (s : State) (f : Option Failure) (p : RegIdx) : (s.setFailure f).reg p = s.reg p := rfl
@[simp] theorem State.setFailure_byteAt (s : State) (f : Option Failure) (p : Nat) : (s.setFailure f).byteAt p = s.byteAt p := rfl
@[simp] theorem State.nextDraw_reg (s : State) (p : RegIdx) : (s.nextDraw).reg p = s.reg p := rfl
@[simp] theorem State.nextDraw_byteAt (s : State) (p : Nat) : (s.nextDraw).byteAt p = s.byteAt p := rfl
@[simp] theorem State.setRegs_byteAt (s : State) (v : Vector Byte 16) (p : Nat) : (s.setRegs v).byteAt p = s.byteAt p := rfl
@[simp] theorem State.setReg_byteAt (s : State) (r : RegIdx) (v : Byte) (p : Nat) : (s.setReg r v).byteAt p = s.byteAt p := rfl
@[simp] theorem State.setFlag_byteAt (s : State) (b : Bool) (p : Nat) : (s.setFlag b).byteAt p = s.byteAt p := rfl
@[simp] theorem State.setResultAndFlag_byteAt (s : State) (r : RegIdx) (v : Byte) (b : Bool) (p : Nat) : (s.setResultAndFlag r v b).byteAt p = s.byteAt p := rfl
@[simp] theorem State.rewind_reg (s : State) (p : RegIdx) : (s.rewind).reg p = s.reg p := rfl
@[simp] theorem State.rewind_byteAt (s : State) (p : Nat) : (s.rewind).byteAt p = s.byteAt p := rfl
@[simp] theorem State.push_reg (s : State) (v : Word) (p : RegIdx) : (s.push v).reg p = s.reg p := rfl
@[simp] theorem State.push_byteAt (s : State) (v : Word) (p : Nat) : (s.push v).byteAt p = s.byteAt p := rfl
@[simp] theorem State.store_reg (s : State) (a : Nat) (bs : List Byte) (p : RegIdx) : (s.store a bs).reg p = s.reg p := rfl
@[simp] theorem State.fail_reg (s : State) (k : FailureKind) (a w : Word) (p : RegIdx) : (s.fail k a w).reg p = s.reg p := rfl
@[simp] theorem State.fail_byteAt (s : State) (k : FailureKind) (a w : Word) (p : Nat) : (s.fail k a w).byteAt p = s.byteAt p := rfl
@[simp] theorem State.raise_reg (s : State) (k : FailureKind) (n : Instr) (p : RegIdx) : (s.raise k n).reg p = s.reg p := rfl
@[simp] theorem State.raise_byteAt (s : State) (k : FailureKind) (n : Instr) (p : Nat) : (s.raise k n).byteAt p = s.byteAt p := rfl
@[simp] theorem State.emit_reg (s : State) (r : Response) (p : RegIdx) : (s.emit r).reg p = s.reg p := rfl
@[simp] theorem State.emit_byteAt (s : State) (r : Response) (p : Nat) : (s.emit r).byteAt p = s.byteAt p := rfl
@[simp] theorem State.advanced_reg (s : State) (p : RegIdx) : (s.advanced).reg p = s.reg p := rfl
@[simp] theorem State.advanced_byteAt (s : State) (p : Nat) : (s.advanced).byteAt p = s.byteAt p := rfl
@[simp] theorem State.updateAudio_reg (s : State) (p : RegIdx) : (s.updateAudio).reg p = s.reg p := rfl
@[simp] theorem State.updateAudio_byteAt (s : State) (p : Nat) : (s.updateAudio).byteAt p = s.byteAt p := rfl

end Sys2Proof.Machine
end

