-- ==== Sys2Proof/Laws/Ops.lean ====
section
/-! SUPPORT. The laws of the shared operations over the state (Machine/Ops.lean, Operands.lean, Flags.lean, Worker.lean):
for each, what it does and what it leaves alone, so that no later proof unfolds it. -/

namespace Sys2Proof.Machine

/-! ### Registers (R12, R21, R22) -/

/-- A register write is read back and leaves every other register alone. -/
@[simp] theorem State.reg_setReg (s : State) (r p : RegIdx) (v : Byte) :
    (s.setReg r v).reg p = if p = r then v else s.reg p := by
  by_cases h : p = r
  · subst h
    simp [State.reg, State.setReg, State.setRegs]
  · have hv : r.val ≠ p.val := fun e => h (Fin.ext e.symm)
    simp [State.reg, State.setReg, State.setRegs, Vector.getElem_set_ne _ _ hv, h]

@[simp] theorem State.reg_setFlag (s : State) (b : Bool) (p : RegIdx) :
    (s.setFlag b).reg p = if p = vf then flagByte b else s.reg p := by
  simp [State.setFlag]

/-- Result first, flag last: `VF` holds the flag, the destination the result unless it is `VF` (R12). -/
@[simp] theorem State.reg_setResultAndFlag (s : State) (r p : RegIdx) (v : Byte) (b : Bool) :
    (s.setResultAndFlag r v b).reg p = if p = vf then flagByte b else if p = r then v else s.reg p := by
  simp [State.setResultAndFlag]

theorem State.reg_setRegs (s : State) (v : Vector Byte 16) (p : RegIdx) : (s.setRegs v).reg p = v[p.val] := rfl

/-- Two register files with the same registers are the same. -/
theorem State.x_ext {s t : State} (h : ∀ r, t.reg r = s.reg r) : t.x = s.x :=
  Vector.ext fun i hi => h ⟨i, hi⟩

@[simp] theorem vf_val : vf.val = 15 := rfl

/-- Registers `k .. k + bs.length - 1` hold the bytes, every other register is as before. -/
theorem putRegs_get (v : Vector Byte 16) (k : Nat) (bs : List Byte) (p : Nat) (hp : p < 16) :
    (putRegs v k bs)[p] = if k ≤ p ∧ p < k + bs.length then bs.getD (p - k) 0#8 else v[p] := by
  induction bs generalizing v k with
  | nil => simp [putRegs, show ¬ (k ≤ p ∧ p < k) by omega]
  | cons b rest ih =>
    rw [putRegs, List.length_cons]
    by_cases hk : k < 16
    · rw [dif_pos hk, ih]
      rcases Nat.lt_trichotomy p k with hlt | heq | hgt
      · rw [if_neg (by omega), if_neg (by omega), Vector.getElem_set_ne _ _ (by omega)]
      · subst heq
        rw [if_neg (by omega), if_pos (by omega), Nat.sub_self, List.getD_cons_zero, Vector.getElem_set_self]
      · rw [show p - k = (p - (k + 1)) + 1 by omega, List.getD_cons_succ]
        by_cases hin : p < k + 1 + rest.length
        · rw [if_pos (by omega), if_pos (by omega)]
        · rw [if_neg (by omega), if_neg (by omega), Vector.getElem_set_ne _ _ (by omega)]
    · rw [dif_neg hk, if_neg (by omega)]

@[simp] theorem State.regsUpTo_length (s : State) (last : RegIdx) : (s.regsUpTo last).length = last.val + 1 := by
  simp [State.regsUpTo]

/-- Byte `k` of the registers a bulk store writes is `x[k]` (R196). -/
theorem State.regsUpTo_getD (s : State) (last : RegIdx) (k : Nat) (hk : k ≤ last.val) :
    (s.regsUpTo last).getD k 0#8 = s.reg ⟨k, by omega⟩ := by
  have h16 : k < 16 := by omega
  rw [List.getD_eq_getElem _ _ (by simp; omega)]
  simp [State.regsUpTo, State.reg]

/-! ### Flags (R151, R152) -/

@[simp] theorem flagByte_toNat (b : Bool) : (flagByte b).toNat = b.toNat := by cases b <;> rfl

/-! ### Control flow -/

/-- A skip changes nothing but `pc` (R129). -/
theorem State.skipIf_eq (s : State) (c : Bool) : s.skipIf c = s.setPc (if c then s.pc + 2#16 else s.pc) := by
  cases c <;> rfl

/-- Past the copied range or unchanged (R196). -/
theorem State.advanceI_eq (s : State) (last : RegIdx) :
    s.advanceI last = s.setI (if s.q.mem then s.i + BitVec.ofNat 16 (last.val + 1) else s.i) := by
  unfold State.advanceI
  split <;> rfl

theorem Addr12.zext_toNat (a : Addr12) : (Addr12.zext a).toNat = a.toNat := by
  have := a.isLt
  simp only [Addr12.zext, BitVec.toNat_setWidth]
  omega

theorem Byte.zext_toNat (b : Byte) : (Byte.zext b).toNat = b.toNat := by
  have := b.isLt
  simp only [Byte.zext, BitVec.toNat_setWidth]
  omega

/-- The indirect jump's target is the plain sum, at most `0x10FE` (R161). -/
theorem State.jumpTarget_toNat (s : State) (nnn : Addr12) :
    (s.jumpTarget nnn).toNat = nnn.toNat + (s.jumpOffset nnn).toNat := by
  have h1 := nnn.isLt
  have h2 := (s.jumpOffset nnn).isLt
  simp only [State.jumpTarget, BitVec.toNat_add, Addr12.zext_toNat, Byte.zext_toNat]
  omega

/-- The glyph's address as a number (R194). -/
theorem glyphAddress_toNat (v : Byte) (h : v.toNat ≤ 15) : (glyphAddress v).toNat = fontBase + 5 * v.toNat := by
  have hb := fontBase_add_le
  simp only [glyphAddress, Config.glyphBytes, BitVec.toNat_ofNat]
  omega

/-! ### Memory through the state -/

theorem State.byteAt_store {s : State} (h : s.mem.wf = true) {a : Nat} {bs : List Byte}
    (ha : a + bs.length ≤ 4096) (b : Nat) :
    (s.store a bs).byteAt b = if a ≤ b ∧ b < a + bs.length then bs.getD (b - a) 0#8 else s.byteAt b :=
  Memory.read_writeBytes h ha b

@[simp] theorem State.bytesAtI_length (s : State) (n : Nat) : (s.bytesAtI n).length = n := by
  simp [State.bytesAtI]

theorem State.bytesAtI_getD (s : State) (n k : Nat) (hk : k < n) :
    (s.bytesAtI n).getD k 0#8 = s.byteAt (s.i.toNat + k) :=
  Memory.readBytes_getD s.mem s.i.toNat n k hk 0#8

/-! ### Keys (R182, R183) -/

theorem mem_keyList (k : KeySet) (j : RegIdx) : j ∈ keyList k ↔ k.getLsbD j.val = true := by
  have hall : ∀ j : RegIdx, j ∈ ([0, 1, 2, 3, 4, 5, 6, 7, 8, 9, 10, 11, 12, 13, 14, 15] : List RegIdx) := by decide
  simp [keyList, List.mem_filter, hall j]

/-- The set `S \ keys`, member by member (R183). -/
theorem State.mem_released (s : State) (snapshot : KeySet) (j : Nat) (hj : j < 16) :
    (s.released snapshot).getLsbD j = (snapshot.getLsbD j && !s.keys.getLsbD j) := by
  simp [State.released, hj]

/-- The key set is empty exactly when no key is in it. -/
theorem keySet_eq_zero_iff (k : KeySet) : k = 0#16 ↔ ∀ j : RegIdx, k.getLsbD j.val = false := by
  refine ⟨fun h j => by simp [h], fun h => BitVec.eq_of_getLsbD_eq fun i hi => ?_⟩
  simpa using h ⟨i, hi⟩

theorem keyList_ne_nil {k : KeySet} (h : k ≠ 0#16) : keyList k ≠ [] := fun hn => h <| by
  rw [keySet_eq_zero_iff]
  intro j
  have hmem : j ∉ keyList k := by simp [hn]
  rw [mem_keyList] at hmem
  simpa using hmem

/-! ### Failures (R10, R214, R223) -/

/-- A drained step that succeeded costs one unit of budget (R222). -/
theorem State.accountDrained_ok {s : State} (h : s.failure = none) :
    s.accountDrained = { s with budget := s.budget - 1, failure := none } := by
  simp [State.accountDrained, h]

/-- A drained step that failed forfeits the budget, stops the run and is reported (R223). -/
theorem State.accountDrained_fail {s : State} {f : Failure} (h : s.failure = some f) :
    s.accountDrained =
      { s with budget := 0, run := .stopped, failure := none, outq := s.outq ++ [.runError f] } := by
  simp [State.accountDrained, h, State.takeDrainFailure, State.emit]

end Sys2Proof.Machine
end

