-- ==== Sys2Proof/Laws/Draw.lean ====
section
/-! SUPPORT. What the shared operations of `DRW` and of the key wait do: every pixel and the collision of a drawn sprite
(43_draw.md R171 to R173), and the members of a released set that a choice can select (44_keypad.md R183). -/

namespace Sys2Proof.Machine

/-! ### The canvas of `DRW` -/

/-- On the screen, `spriteOn` is the bit of the sprite bytes that `DRW` reads at `I`. -/
theorem spriteOn_eq (s : State) (x y : RegIdx) (n : Fin 16) {r c : Nat} (hr : r < 32) (hc : c < 64) :
    spriteOn s x y n r c =
      (decide (r < 32 ∧ c < 64 ∧ startRow (s.reg y) ≤ r ∧ r < startRow (s.reg y) + (s.bytesAtI n.val).length ∧
        startColumn (s.reg x) ≤ c ∧ c < startColumn (s.reg x) + 8) &&
      ((s.bytesAtI n.val).getD (r - startRow (s.reg y)) 0#8).getLsbD (7 - (c - startColumn (s.reg x)))) := by
  simp only [State.bytesAtI_length, spriteOn, startRow, startColumn, Config.fbWidth, Config.fbHeight, hr, hc, true_and]
  by_cases h1 : (s.reg y).toNat % 32 ≤ r
  · by_cases h2 : r < (s.reg y).toNat % 32 + n.val
    · rw [State.bytesAtI_getD _ _ _ (by omega)]
      simp [h1, h2, Bool.and_assoc]
    · simp [h2]
  · simp [h1]

/-- Every pixel after a draw. -/
theorem State.get_drawn (s : State) (x y : RegIdx) (n : Fin 16) {r c : Nat} (hr : r < 32) (hc : c < 64) :
    (s.drawn x y n).fb.get r c = (s.fb.get r c ^^ spriteOn s x y n r c) := by
  rw [State.drawn, drawSprite, Canvas.get_drawRows, spriteOn_eq s x y n hr hc]

/-- A draw collides exactly when a visible set sprite bit falls on a pixel that was on. -/
theorem State.hit_drawn (s : State) (x y : RegIdx) (n : Fin 16) :
    (s.drawn x y n).hit = true ↔
      ∃ r c, r < 32 ∧ c < 64 ∧ spriteOn s x y n r c = true ∧ s.fb.get r c = true := by
  rw [State.drawn, drawSprite, Canvas.hit_drawRows]
  simp only [Bool.false_eq_true, false_or]
  constructor
  · rintro ⟨r, c, h1, h2, h3, h4, h5, h6⟩
    by_cases hh : r < 32 ∧ c < 64
    · refine ⟨r, c, hh.1, hh.2, ?_, h6⟩
      rw [spriteOn_eq s x y n hh.1 hh.2, h5, Bool.and_true, decide_eq_true_eq]
      exact ⟨hh.1, hh.2, h1, h2, h3, h4⟩
    · rw [Framebuffer.get_outside _ hh] at h6
      cases h6
  · rintro ⟨r, c, hr, hc, h1, h2⟩
    rw [spriteOn_eq s x y n hr hc, Bool.and_eq_true, decide_eq_true_eq] at h1
    exact ⟨r, c, h1.1.2.2.1, h1.1.2.2.2.1, h1.1.2.2.2.2.1, h1.1.2.2.2.2.2, h1.2, h2⟩

/-! ### Released keys -/

/-- Nothing was released exactly when every key of the snapshot is still held. -/
theorem State.released_eq_zero (s : State) (snapshot : KeySet) :
    s.released snapshot = 0#16 ↔
      ∀ k : RegIdx, snapshot.getLsbD k.val = true → s.keys.getLsbD k.val = true := by
  rw [keySet_eq_zero_iff]
  refine forall_congr' fun k => ?_
  rw [State.mem_released _ _ _ k.isLt]
  cases snapshot.getLsbD k.val <;> simp

/-- Whatever the number, a choice from a non-empty set is a member of it. -/
theorem chooseKey_mem {k : KeySet} (hk : k ≠ 0#16) (n : Nat) : k.getLsbD (chooseKey k n).val = true := by
  have hlt := Nat.mod_lt n (List.length_pos_iff.mpr (keyList_ne_nil hk))
  rw [← mem_keyList, chooseKey, List.getD_eq_getElem _ _ hlt]
  exact List.getElem_mem _

/-- Every member of a set is the choice of some number. -/
theorem chooseKey_surjective {k : KeySet} {j : RegIdx} (hj : k.getLsbD j.val = true) : ∃ n, chooseKey k n = j := by
  obtain ⟨n, hn, h⟩ := List.mem_iff_getElem.mp ((mem_keyList k j).mpr hj)
  exact ⟨n, by rw [chooseKey, Nat.mod_eq_of_lt hn, List.getD_eq_getElem _ _ hn, h]⟩

end Sys2Proof.Machine
end

