-- ==== Sys2Proof/Laws/PerInstr.lean ====
section
/-! SUPPORT. The family `RoundTrip`, one lemma per constructor of `Instr`: the decoder reads back the word that the
encoder writes, with every operand at every value (30_encoding.md R94, R95). -/

namespace Sys2Proof.Laws

/-- The word of a well-formed instruction decodes to it. -/
def RoundTrip.Statement (i : Instr) : Prop := i.wf = true → decodeWord (encode i) = .ok i

theorem RoundTrip.cls : RoundTrip.Statement .cls := fun _ => by decide

theorem RoundTrip.ret : RoundTrip.Statement .ret := fun _ => by decide

theorem RoundTrip.sys (nnn : Addr12) : RoundTrip.Statement (.sys nnn) := fun h => by
  simp only [Instr.wf, Bool.and_eq_true, bne_iff_ne] at h
  have hlt := nnn.isLt
  have hne : ∀ k : Nat, k < 4096 → nnn ≠ BitVec.ofNat 12 k → formatNNN 0 nnn ≠ BitVec.ofNat 16 k := by
    intro k hk hn he
    refine hn (BitVec.eq_of_toNat_eq ?_)
    have := congrArg BitVec.toNat he
    rw [formatNNN_toNat (by omega)] at this
    simp only [BitVec.toNat_ofNat] at this ⊢
    omega
  have := decodeWord_eq (fieldOp_formatNNN (op := 0) (by omega) nnn) (hne 0xE0 (by omega) h.1) (hne 0xEE (by omega) h.2)
  simpa only [encode, decodeByOp, fieldNNN_formatNNN (op := 0) (by omega)] using this

theorem RoundTrip.jp (nnn : Addr12) : RoundTrip.Statement (.jp nnn) := fun _ => by
  have := decodeWord_eq_of_pos (fieldOp_formatNNN (op := 0x1) (by omega) nnn) (by omega)
  simpa only [encode, decodeByOp, fieldNNN_formatNNN (op := 0x1) (by omega)] using this

theorem RoundTrip.call (nnn : Addr12) : RoundTrip.Statement (.call nnn) := fun _ => by
  have := decodeWord_eq_of_pos (fieldOp_formatNNN (op := 0x2) (by omega) nnn) (by omega)
  simpa only [encode, decodeByOp, fieldNNN_formatNNN (op := 0x2) (by omega)] using this

theorem RoundTrip.seImm (x : RegIdx) (nn : Byte) : RoundTrip.Statement (.seImm x nn) := fun _ => by
  have := decodeWord_eq_of_pos (fieldOp_formatXNN (op := 0x3) (by omega) x nn) (by omega)
  simpa only [encode, decodeByOp, fieldX_formatXNN (op := 0x3) (by omega), fieldNN_formatXNN (op := 0x3) (by omega)] using this

theorem RoundTrip.sneImm (x : RegIdx) (nn : Byte) : RoundTrip.Statement (.sneImm x nn) := fun _ => by
  have := decodeWord_eq_of_pos (fieldOp_formatXNN (op := 0x4) (by omega) x nn) (by omega)
  simpa only [encode, decodeByOp, fieldX_formatXNN (op := 0x4) (by omega), fieldNN_formatXNN (op := 0x4) (by omega)] using this

theorem RoundTrip.seReg (x y : RegIdx) : RoundTrip.Statement (.seReg x y) := fun _ => by
  have := decodeWord_eq_of_pos (fieldOp_formatXYN (op := 0x5) (by omega) x y 0x0) (by omega)
  simpa [encode, decodeByOp, fieldX_formatXYN (op := 0x5) (by omega), fieldY_formatXYN (op := 0x5) (by omega),
    fieldN_formatXYN (op := 0x5) (by omega)] using this

theorem RoundTrip.ldImm (x : RegIdx) (nn : Byte) : RoundTrip.Statement (.ldImm x nn) := fun _ => by
  have := decodeWord_eq_of_pos (fieldOp_formatXNN (op := 0x6) (by omega) x nn) (by omega)
  simpa only [encode, decodeByOp, fieldX_formatXNN (op := 0x6) (by omega), fieldNN_formatXNN (op := 0x6) (by omega)] using this

theorem RoundTrip.addImm (x : RegIdx) (nn : Byte) : RoundTrip.Statement (.addImm x nn) := fun _ => by
  have := decodeWord_eq_of_pos (fieldOp_formatXNN (op := 0x7) (by omega) x nn) (by omega)
  simpa only [encode, decodeByOp, fieldX_formatXNN (op := 0x7) (by omega), fieldNN_formatXNN (op := 0x7) (by omega)] using this

theorem RoundTrip.ldReg (x y : RegIdx) : RoundTrip.Statement (.ldReg x y) := fun _ => by
  have := decodeWord_eq_of_pos (fieldOp_formatXYN (op := 0x8) (by omega) x y 0x0) (by omega)
  simpa [encode, decodeByOp, decodeAlu, fieldX_formatXYN (op := 0x8) (by omega), fieldY_formatXYN (op := 0x8) (by omega),
    fieldN_formatXYN (op := 0x8) (by omega)] using this

theorem RoundTrip.orReg (x y : RegIdx) : RoundTrip.Statement (.orReg x y) := fun _ => by
  have := decodeWord_eq_of_pos (fieldOp_formatXYN (op := 0x8) (by omega) x y 0x1) (by omega)
  simpa [encode, decodeByOp, decodeAlu, fieldX_formatXYN (op := 0x8) (by omega), fieldY_formatXYN (op := 0x8) (by omega),
    fieldN_formatXYN (op := 0x8) (by omega)] using this

theorem RoundTrip.andReg (x y : RegIdx) : RoundTrip.Statement (.andReg x y) := fun _ => by
  have := decodeWord_eq_of_pos (fieldOp_formatXYN (op := 0x8) (by omega) x y 0x2) (by omega)
  simpa [encode, decodeByOp, decodeAlu, fieldX_formatXYN (op := 0x8) (by omega), fieldY_formatXYN (op := 0x8) (by omega),
    fieldN_formatXYN (op := 0x8) (by omega)] using this

theorem RoundTrip.xorReg (x y : RegIdx) : RoundTrip.Statement (.xorReg x y) := fun _ => by
  have := decodeWord_eq_of_pos (fieldOp_formatXYN (op := 0x8) (by omega) x y 0x3) (by omega)
  simpa [encode, decodeByOp, decodeAlu, fieldX_formatXYN (op := 0x8) (by omega), fieldY_formatXYN (op := 0x8) (by omega),
    fieldN_formatXYN (op := 0x8) (by omega)] using this

theorem RoundTrip.addReg (x y : RegIdx) : RoundTrip.Statement (.addReg x y) := fun _ => by
  have := decodeWord_eq_of_pos (fieldOp_formatXYN (op := 0x8) (by omega) x y 0x4) (by omega)
  simpa [encode, decodeByOp, decodeAlu, fieldX_formatXYN (op := 0x8) (by omega), fieldY_formatXYN (op := 0x8) (by omega),
    fieldN_formatXYN (op := 0x8) (by omega)] using this

theorem RoundTrip.sub (x y : RegIdx) : RoundTrip.Statement (.sub x y) := fun _ => by
  have := decodeWord_eq_of_pos (fieldOp_formatXYN (op := 0x8) (by omega) x y 0x5) (by omega)
  simpa [encode, decodeByOp, decodeAlu, fieldX_formatXYN (op := 0x8) (by omega), fieldY_formatXYN (op := 0x8) (by omega),
    fieldN_formatXYN (op := 0x8) (by omega)] using this

theorem RoundTrip.shr (x y : RegIdx) : RoundTrip.Statement (.shr x y) := fun _ => by
  have := decodeWord_eq_of_pos (fieldOp_formatXYN (op := 0x8) (by omega) x y 0x6) (by omega)
  simpa [encode, decodeByOp, decodeAlu, fieldX_formatXYN (op := 0x8) (by omega), fieldY_formatXYN (op := 0x8) (by omega),
    fieldN_formatXYN (op := 0x8) (by omega)] using this

theorem RoundTrip.subn (x y : RegIdx) : RoundTrip.Statement (.subn x y) := fun _ => by
  have := decodeWord_eq_of_pos (fieldOp_formatXYN (op := 0x8) (by omega) x y 0x7) (by omega)
  simpa [encode, decodeByOp, decodeAlu, fieldX_formatXYN (op := 0x8) (by omega), fieldY_formatXYN (op := 0x8) (by omega),
    fieldN_formatXYN (op := 0x8) (by omega)] using this

theorem RoundTrip.shl (x y : RegIdx) : RoundTrip.Statement (.shl x y) := fun _ => by
  have := decodeWord_eq_of_pos (fieldOp_formatXYN (op := 0x8) (by omega) x y 0xE) (by omega)
  simpa [encode, decodeByOp, decodeAlu, fieldX_formatXYN (op := 0x8) (by omega), fieldY_formatXYN (op := 0x8) (by omega),
    fieldN_formatXYN (op := 0x8) (by omega)] using this

theorem RoundTrip.sneReg (x y : RegIdx) : RoundTrip.Statement (.sneReg x y) := fun _ => by
  have := decodeWord_eq_of_pos (fieldOp_formatXYN (op := 0x9) (by omega) x y 0x0) (by omega)
  simpa [encode, decodeByOp, fieldX_formatXYN (op := 0x9) (by omega), fieldY_formatXYN (op := 0x9) (by omega),
    fieldN_formatXYN (op := 0x9) (by omega)] using this

theorem RoundTrip.ldI (nnn : Addr12) : RoundTrip.Statement (.ldI nnn) := fun _ => by
  have := decodeWord_eq_of_pos (fieldOp_formatNNN (op := 0xA) (by omega) nnn) (by omega)
  simpa only [encode, decodeByOp, fieldNNN_formatNNN (op := 0xA) (by omega)] using this

theorem RoundTrip.jpV0 (nnn : Addr12) : RoundTrip.Statement (.jpV0 nnn) := fun _ => by
  have := decodeWord_eq_of_pos (fieldOp_formatNNN (op := 0xB) (by omega) nnn) (by omega)
  simpa only [encode, decodeByOp, fieldNNN_formatNNN (op := 0xB) (by omega)] using this

theorem RoundTrip.rnd (x : RegIdx) (nn : Byte) : RoundTrip.Statement (.rnd x nn) := fun _ => by
  have := decodeWord_eq_of_pos (fieldOp_formatXNN (op := 0xC) (by omega) x nn) (by omega)
  simpa only [encode, decodeByOp, fieldX_formatXNN (op := 0xC) (by omega), fieldNN_formatXNN (op := 0xC) (by omega)] using this

theorem RoundTrip.drw (x y : RegIdx) (n : Fin 16) : RoundTrip.Statement (.drw x y n) := fun _ => by
  have := decodeWord_eq_of_pos (fieldOp_formatXYN (op := 0xD) (by omega) x y n) (by omega)
  simpa only [encode, decodeByOp, fieldX_formatXYN (op := 0xD) (by omega), fieldY_formatXYN (op := 0xD) (by omega),
    fieldN_formatXYN (op := 0xD) (by omega)] using this

theorem RoundTrip.skp (x : RegIdx) : RoundTrip.Statement (.skp x) := fun _ => by
  have := decodeWord_eq_of_pos (fieldOp_formatXNN (op := 0xE) (by omega) x 0x9E#8) (by omega)
  simpa [encode, decodeByOp, decodeKey, fieldX_formatXNN (op := 0xE) (by omega), fieldNN_formatXNN (op := 0xE) (by omega)] using this

theorem RoundTrip.sknp (x : RegIdx) : RoundTrip.Statement (.sknp x) := fun _ => by
  have := decodeWord_eq_of_pos (fieldOp_formatXNN (op := 0xE) (by omega) x 0xA1#8) (by omega)
  simpa [encode, decodeByOp, decodeKey, fieldX_formatXNN (op := 0xE) (by omega), fieldNN_formatXNN (op := 0xE) (by omega)] using this

theorem RoundTrip.ldVxDt (x : RegIdx) : RoundTrip.Statement (.ldVxDt x) := fun _ => by
  have := decodeWord_eq_of_pos (fieldOp_formatXNN (op := 0xF) (by omega) x 0x07#8) (by omega)
  simpa [encode, decodeByOp, decodeMisc, fieldX_formatXNN (op := 0xF) (by omega), fieldNN_formatXNN (op := 0xF) (by omega)] using this

theorem RoundTrip.ldVxK (x : RegIdx) : RoundTrip.Statement (.ldVxK x) := fun _ => by
  have := decodeWord_eq_of_pos (fieldOp_formatXNN (op := 0xF) (by omega) x 0x0A#8) (by omega)
  simpa [encode, decodeByOp, decodeMisc, fieldX_formatXNN (op := 0xF) (by omega), fieldNN_formatXNN (op := 0xF) (by omega)] using this

theorem RoundTrip.ldDtVx (x : RegIdx) : RoundTrip.Statement (.ldDtVx x) := fun _ => by
  have := decodeWord_eq_of_pos (fieldOp_formatXNN (op := 0xF) (by omega) x 0x15#8) (by omega)
  simpa [encode, decodeByOp, decodeMisc, fieldX_formatXNN (op := 0xF) (by omega), fieldNN_formatXNN (op := 0xF) (by omega)] using this

theorem RoundTrip.ldStVx (x : RegIdx) : RoundTrip.Statement (.ldStVx x) := fun _ => by
  have := decodeWord_eq_of_pos (fieldOp_formatXNN (op := 0xF) (by omega) x 0x18#8) (by omega)
  simpa [encode, decodeByOp, decodeMisc, fieldX_formatXNN (op := 0xF) (by omega), fieldNN_formatXNN (op := 0xF) (by omega)] using this

theorem RoundTrip.addI (x : RegIdx) : RoundTrip.Statement (.addI x) := fun _ => by
  have := decodeWord_eq_of_pos (fieldOp_formatXNN (op := 0xF) (by omega) x 0x1E#8) (by omega)
  simpa [encode, decodeByOp, decodeMisc, fieldX_formatXNN (op := 0xF) (by omega), fieldNN_formatXNN (op := 0xF) (by omega)] using this

theorem RoundTrip.ldF (x : RegIdx) : RoundTrip.Statement (.ldF x) := fun _ => by
  have := decodeWord_eq_of_pos (fieldOp_formatXNN (op := 0xF) (by omega) x 0x29#8) (by omega)
  simpa [encode, decodeByOp, decodeMisc, fieldX_formatXNN (op := 0xF) (by omega), fieldNN_formatXNN (op := 0xF) (by omega)] using this

theorem RoundTrip.ldB (x : RegIdx) : RoundTrip.Statement (.ldB x) := fun _ => by
  have := decodeWord_eq_of_pos (fieldOp_formatXNN (op := 0xF) (by omega) x 0x33#8) (by omega)
  simpa [encode, decodeByOp, decodeMisc, fieldX_formatXNN (op := 0xF) (by omega), fieldNN_formatXNN (op := 0xF) (by omega)] using this

theorem RoundTrip.stRegs (x : RegIdx) : RoundTrip.Statement (.stRegs x) := fun _ => by
  have := decodeWord_eq_of_pos (fieldOp_formatXNN (op := 0xF) (by omega) x 0x55#8) (by omega)
  simpa [encode, decodeByOp, decodeMisc, fieldX_formatXNN (op := 0xF) (by omega), fieldNN_formatXNN (op := 0xF) (by omega)] using this

theorem RoundTrip.ldRegs (x : RegIdx) : RoundTrip.Statement (.ldRegs x) := fun _ => by
  have := decodeWord_eq_of_pos (fieldOp_formatXNN (op := 0xF) (by omega) x 0x65#8) (by omega)
  simpa [encode, decodeByOp, decodeMisc, fieldX_formatXNN (op := 0xF) (by omega), fieldNN_formatXNN (op := 0xF) (by omega)] using this

end Sys2Proof.Laws
end

