-- ==== Sys2Proof/Laws/Worker.lean ====
section
/-! SUPPORT. What one step can do, said once: the engine's three cases, the worker's three cases, the end of a message,
and the fetch. Later proofs cite these instead of unfolding the step. -/

namespace Sys2Proof.Machine

/-! ### Outcomes -/

@[simp] theorem mapNext_next (f : State → State) (s : State) : mapNext f (.next s) = .next (f s) := rfl

theorem mapNext_eq_next {f : State → State} {o : Host.Outcome State Fault Refusal} {t : State}
    (h : mapNext f o = .next t) : ∃ u, o = .next u ∧ t = f u := by
  cases o with
  | next u => exact ⟨u, rfl, by simpa [mapNext, eq_comm] using h⟩
  | fault r => simp [mapNext] at h
  | refused r => simp [mapNext] at h

/-! ### The engine (R90) -/

/-- Every instruction answers a next state: a failure is one too (R250, R257). -/
theorem exec_next (i : Instr) (s : State) : ∃ t, exec i s = .next t := by
  cases i <;> exact ⟨_, rfl⟩

/-- The fetch of a word that lies in memory (R65). -/
theorem State.fetchWord_eq_some {s : State} (h : s.pc.toNat ≤ 4094) :
    s.fetchWord = some (wordOfBytes (s.byteAt s.pc.toNat) (s.byteAt (s.pc.toNat + 1))) := by
  have : inRange s.pc.toNat 2 = true := (inRange_pos (by decide)).mpr (by omega)
  simp [State.fetchWord, Memory.read2, this, State.byteAt]

theorem State.fetchWord_eq_none {s : State} (h : 4094 < s.pc.toNat) : s.fetchWord = none := by
  have : inRange s.pc.toNat 2 = false := by
    rw [Bool.eq_false_iff]
    exact fun hc => absurd ((inRange_pos (by decide)).mp hc) (by omega)
  simp [State.fetchWord, Memory.read2, this]

/-- A word was fetched only if both its bytes lie in memory. -/
theorem State.pc_le_of_fetchWord {s : State} {w : Word} (h : s.fetchWord = some w) : s.pc.toNat ≤ 4094 := by
  refine Nat.le_of_not_lt fun hlt => ?_
  rw [State.fetchWord_eq_none hlt] at h
  cases h

theorem engineStep_of_none {s : State} (h : s.fetchWord = none) :
    engineStep s = .next (s.fail .memoryOutOfBounds s.pc 0#16) := by
  simp [engineStep, h]

theorem engineStep_of_error {s : State} {w : Word} {e : DecodeError} (h : s.fetchWord = some w)
    (hd : decodeWord w = .error e) : engineStep s = .next (s.advanced.fail .unknownInstruction s.pc w) := by
  simp [engineStep, h, hd]

theorem engineStep_of_ok {s : State} {w : Word} {i : Instr} (h : s.fetchWord = some w)
    (hd : decodeWord w = .ok i) : engineStep s = exec i s.advanced := by
  simp [engineStep, h, hd]

/-- A step of the engine is a failed fetch, an unknown word, or an instruction on the advanced state. -/
theorem engineStep_cases {s t : State} (h : engineStep s = .next t) :
    (s.fetchWord = none ∧ t = s.fail .memoryOutOfBounds s.pc 0#16) ∨
    (∃ w e, s.fetchWord = some w ∧ decodeWord w = .error e ∧ t = s.advanced.fail .unknownInstruction s.pc w) ∨
    (∃ w i, s.fetchWord = some w ∧ decodeWord w = .ok i ∧ exec i s.advanced = .next t) := by
  cases hf : s.fetchWord with
  | none =>
    rw [engineStep_of_none hf] at h
    exact .inl ⟨rfl, by simpa [eq_comm] using h⟩
  | some w =>
    cases hd : decodeWord w with
    | error e =>
      rw [engineStep_of_error hf hd] at h
      exact .inr (.inl ⟨w, e, rfl, hd, by simpa [eq_comm] using h⟩)
    | ok i =>
      rw [engineStep_of_ok hf hd] at h
      exact .inr (.inr ⟨w, i, rfl, hd, h⟩)

/-- The engine always answers a next state. -/
theorem engineStep_next (s : State) : ∃ t, engineStep s = .next t := by
  cases hf : s.fetchWord with
  | none => exact ⟨_, engineStep_of_none hf⟩
  | some w =>
    cases hd : decodeWord w with
    | error e => exact ⟨_, engineStep_of_error hf hd⟩
    | ok i =>
      obtain ⟨t, ht⟩ := exec_next i s.advanced
      exact ⟨t, (engineStep_of_ok hf hd).trans ht⟩

/-! ### The worker (R211) -/

theorem State.not_draining_of_budget {s : State} (h : s.budget = 0) : s.draining = false := by
  simp [State.draining, h]

theorem State.finishMessage_of_not_draining {s : State} (h : s.draining = false) : s.finishMessage = s.updateAudio := by
  simp [State.finishMessage, h]

/-- The end of a message changes nothing but the audio level (R224). -/
theorem State.finishMessage_eq (s : State) :
    s.finishMessage = { s with audio := if s.draining then s.audio else audioLevel s.st } := by
  unfold State.finishMessage State.updateAudio
  split <;> rfl

theorem step_of_draining {s : State} (h : s.draining = true) :
    step s = mapNext State.finishMessage (mapNext State.accountDrained (engineStep s)) := by
  simp [step, workerStep, h, drainStep]

theorem step_of_message {s : State} {m : Message} {rest : List Message} (h : s.draining = false)
    (ho : s.inqOpen = true) (hq : s.inq = m :: rest) :
    step s = mapNext State.finishMessage (handle m { s with inq := rest }) := by
  simp [step, workerStep, h, ho, hq]

theorem step_of_waiting {s : State} (h : s.draining = false) (ho : s.inqOpen = true) (hq : s.inq = []) :
    step s = .next s := by
  simp [step, workerStep, h, ho, hq]

/-- A message answers a next state, whatever it is. -/
theorem handle_next (m : Message) (s : State) : ∃ t, handle m s = .next t := by
  rcases m with ⟨c⟩ | _
  · cases c with
    | step =>
      obtain ⟨t, ht⟩ := engineStep_next s
      exact ⟨t.reportStep, by simp [handle, ht]⟩
    | _ => exact ⟨_, rfl⟩
  · exact ⟨_, rfl⟩

/-- A step of the machine is one instruction of the budget, one message, or waiting. -/
theorem step_cases {s t : State} (h : step s = .next t) :
    (s.draining = true ∧ ∃ u, engineStep s = .next u ∧ t = u.accountDrained.finishMessage) ∨
    (s.draining = false ∧ s.inqOpen = true ∧ ∃ m rest u, s.inq = m :: rest ∧
      handle m { s with inq := rest } = .next u ∧ t = u.finishMessage) ∨
    (s.draining = false ∧ s.inqOpen = true ∧ s.inq = [] ∧ t = s) := by
  cases hd : s.draining with
  | true =>
    rw [step_of_draining hd] at h
    obtain ⟨v, hv, rfl⟩ := mapNext_eq_next h
    obtain ⟨u, hu, rfl⟩ := mapNext_eq_next hv
    exact .inl ⟨rfl, u, hu, rfl⟩
  | false =>
    by_cases ho : s.inqOpen = true
    · cases hq : s.inq with
      | nil =>
        rw [step_of_waiting hd ho hq] at h
        exact .inr (.inr ⟨rfl, ho, rfl, by simpa [eq_comm] using h⟩)
      | cons m rest =>
        rw [step_of_message hd ho hq] at h
        obtain ⟨u, hu, rfl⟩ := mapNext_eq_next h
        exact .inr (.inl ⟨rfl, ho, m, rest, u, rfl, hu, rfl⟩)
    · cases hq : s.inq <;> simp [step, workerStep, hd, hq, ho] at h

end Sys2Proof.Machine
end

