-- ==== Sys2Proof/Tests/Slice0.lean ====
section
/-! SUPPORT. Tests. The decode tests are words written out digit by digit from the table of 30_encoding.md R95; the
expected results of the step tests are the examples and corner cases of the instruction rules (files 40 to 45) and of
47_host_messages.md; the witnesses show that the hypotheses of the statements can be met, at the edges of their ranges. -/

namespace Sys2Proof.Machine.Tests

/-! ### Well-formedness -/

theorem test_wf_sys_0E0_refused : (Instr.sys 0x0E0#12).wf = false := by decide
theorem test_wf_sys_0EE_refused : (Instr.sys 0x0EE#12).wf = false := by decide
theorem test_wf_sys_0E1 : (Instr.sys 0x0E1#12).wf = true := by decide

/-! ### Decoding (R91, R95): one word of every row -/

theorem test_decode_cls : decodeTableWord 16 0x00E0 = some .cls := by decide
theorem test_decode_ret : decodeTableWord 16 0x00EE = some .ret := by decide
theorem test_decode_sys : decodeTableWord 16 0x0123 = some (.sys 0x123#12) := by decide
theorem test_decode_jp : decodeTableWord 16 0x1234 = some (.jp 0x234#12) := by decide
theorem test_decode_call : decodeTableWord 16 0x2ABC = some (.call 0xABC#12) := by decide
theorem test_decode_seImm : decodeTableWord 16 0x3A7B = some (.seImm 10 0x7B#8) := by decide
theorem test_decode_sneImm : decodeTableWord 16 0x4A07 = some (.sneImm 10 0x07#8) := by decide
theorem test_decode_seReg : decodeTableWord 16 0x5120 = some (.seReg 1 2) := by decide
theorem test_decode_ldImm : decodeTableWord 16 0x60FE = some (.ldImm 0 0xFE#8) := by decide
theorem test_decode_addImm : decodeTableWord 16 0x71FF = some (.addImm 1 0xFF#8) := by decide
theorem test_decode_ldReg : decodeTableWord 16 0x8120 = some (.ldReg 1 2) := by decide
theorem test_decode_orReg : decodeTableWord 16 0x8CD1 = some (.orReg 12 13) := by decide
theorem test_decode_andReg : decodeTableWord 16 0x8CD2 = some (.andReg 12 13) := by decide
theorem test_decode_xorReg : decodeTableWord 16 0x8CD3 = some (.xorReg 12 13) := by decide
theorem test_decode_addReg : decodeTableWord 16 0x8CD4 = some (.addReg 12 13) := by decide
theorem test_decode_sub : decodeTableWord 16 0x8CD5 = some (.sub 12 13) := by decide
theorem test_decode_shr : decodeTableWord 16 0x8126 = some (.shr 1 2) := by decide
theorem test_decode_subn : decodeTableWord 16 0x8CD7 = some (.subn 12 13) := by decide
theorem test_decode_shl : decodeTableWord 16 0x812E = some (.shl 1 2) := by decide
theorem test_decode_sneReg : decodeTableWord 16 0x9120 = some (.sneReg 1 2) := by decide
theorem test_decode_ldI : decodeTableWord 16 0xA300 = some (.ldI 0x300#12) := by decide
theorem test_decode_jpV0 : decodeTableWord 16 0xB210 = some (.jpV0 0x210#12) := by decide
theorem test_decode_rnd : decodeTableWord 16 0xC30F = some (.rnd 3 0x0F#8) := by decide
theorem test_decode_drw : decodeTableWord 16 0xD12F = some (.drw 1 2 15) := by decide
theorem test_decode_skp : decodeTableWord 16 0xE19E = some (.skp 1) := by decide
theorem test_decode_sknp : decodeTableWord 16 0xE1A1 = some (.sknp 1) := by decide
theorem test_decode_ldVxDt : decodeTableWord 16 0xF307 = some (.ldVxDt 3) := by decide
theorem test_decode_ldVxK : decodeTableWord 16 0xF30A = some (.ldVxK 3) := by decide
theorem test_decode_ldDtVx : decodeTableWord 16 0xF315 = some (.ldDtVx 3) := by decide
theorem test_decode_ldStVx : decodeTableWord 16 0xF318 = some (.ldStVx 3) := by decide
theorem test_decode_addI : decodeTableWord 16 0xF11E = some (.addI 1) := by decide
theorem test_decode_ldF : decodeTableWord 16 0xF029 = some (.ldF 0) := by decide
theorem test_decode_ldB : decodeTableWord 16 0xF033 = some (.ldB 0) := by decide
theorem test_decode_stRegs : decodeTableWord 16 0xF255 = some (.stRegs 2) := by decide
theorem test_decode_ldRegs : decodeTableWord 16 0xF265 = some (.ldRegs 2) := by decide
theorem test_decode_unknown :
    [0x5121, 0x8128, 0x812F, 0x9121, 0xE19F, 0xF100, 0xF1FF].map (decodeTableWord 16) = List.replicate 7 none := by decide

/-! ### Small states -/

/-- Power-on with some registers set. -/
def withRegs (l : List (RegIdx × Byte)) : State := l.foldl (fun s p => s.setReg p.1 p.2) State.reset

/-- The next state, if there is one. -/
def nextOf (o : Host.Outcome State Fault Refusal) : Option State :=
  match o with
  | .next t => some t
  | .fault _ => none
  | .refused _ => none

/-- The state after one execution, seen through `f`. -/
def after {α : Type} (i : Instr) (s : State) (f : State → α) : Option α := (nextOf (exec i s)).map f

/-- Power-on with the bytes `l` stored from `a` on. -/
def withBytes (a : Nat) (l : List Byte) : State := State.reset.store a l

/-- Power-on with one message queued. -/
def queued (m : Message) : State := { State.reset with inq := [m] }

/-- Power-on in the middle of a tick's drain: budget `n`, the bytes `l` at `0x200`. -/
def drainingAt (n : Nat) (l : List Byte) : State := { withBytes 0x200 l with run := .running 60#32, budget := n }

/-! ### One step of each instruction -/

theorem test_cls : after .cls (State.reset.setFb (Framebuffer.blank.put 3 5 true)) (fun t => t.fb.get 3 5) = some false := by decide
theorem test_ret : after .ret (State.reset.push 0x206#16) (fun t => (t.pc, t.stack)) = some (0x206#16, []) := by decide
theorem test_ret_underflow : after .ret (State.reset.setPc 0x202#16) (fun t => (t.pc, t.failure)) =
    some (0x202#16, some { kind := .stackUnderflow, addr := 0x200#16, word := 0x00EE#16 }) := by decide
theorem test_jp : after (.jp 0x202#12) State.reset (fun t => t.pc) = some 0x202#16 := by decide
theorem test_call : after (.call 0x20A#12) (State.reset.setPc 0x206#16) (fun t => (t.pc, t.stack)) =
    some (0x20A#16, [0x206#16]) := by decide
theorem test_seImm : after (.seImm 1 0#8) ((withRegs [(1, 0#8)]).setPc 0x20A#16) (fun t => t.pc) = some 0x20C#16 := by decide
theorem test_seImm_not : after (.seImm 1 0#8) ((withRegs [(1, 1#8)]).setPc 0x20A#16) (fun t => t.pc) = some 0x20A#16 := by decide
theorem test_sneImm : after (.sneImm 10 7#8) ((withRegs [(10, 8#8)]).setPc 0x302#16) (fun t => t.pc) = some 0x304#16 := by decide
theorem test_sneImm_not : after (.sneImm 10 7#8) ((withRegs [(10, 7#8)]).setPc 0x302#16) (fun t => t.pc) = some 0x302#16 := by decide
theorem test_seReg : after (.seReg 1 2) ((withRegs [(1, 0x33#8), (2, 0x33#8)]).setPc 0x202#16) (fun t => t.pc) = some 0x204#16 := by decide
theorem test_sneReg : after (.sneReg 1 2) ((withRegs [(1, 1#8), (2, 2#8)]).setPc 0x202#16) (fun t => t.pc) = some 0x204#16 := by decide
theorem test_ldImm : after (.ldImm 0 0xFE#8) State.reset (fun t => t.reg 0) = some 0xFE#8 := by decide
theorem test_addImm : after (.addImm 1 0xFF#8) (withRegs [(1, 5#8)]) (fun t => (t.reg 1, t.reg 15)) = some (4#8, 0#8) := by decide
theorem test_ldReg : after (.ldReg 1 2) (withRegs [(2, 0x7C#8)]) (fun t => t.reg 1) = some 0x7C#8 := by decide
theorem test_or : after (.orReg 0 1) (withRegs [(0, 0xF0#8), (1, 0x3C#8)]) (fun t => t.reg 0) = some 0xFC#8 := by decide
theorem test_and : after (.andReg 0 1) (withRegs [(0, 0xF0#8), (1, 0x3C#8)]) (fun t => t.reg 0) = some 0x30#8 := by decide
theorem test_xor : after (.xorReg 0 1) (withRegs [(0, 0xF0#8), (1, 0x3C#8)]) (fun t => t.reg 0) = some 0xCC#8 := by decide
theorem test_add : after (.addReg 0 1) (withRegs [(0, 0xFF#8), (1, 2#8)]) (fun t => (t.reg 0, t.reg 15)) = some (1#8, 1#8) := by decide
theorem test_add_to_vf : after (.addReg 15 0) (withRegs [(15, 0xFF#8), (0, 0xFF#8)]) (fun t => t.reg 15) = some 1#8 := by decide
theorem test_sub : after (.sub 0 1) (withRegs [(0, 5#8), (1, 7#8)]) (fun t => (t.reg 0, t.reg 15)) = some (0xFE#8, 0#8) := by decide
theorem test_sub_equal : after (.sub 0 1) (withRegs [(0, 7#8), (1, 7#8)]) (fun t => (t.reg 0, t.reg 15)) = some (0#8, 1#8) := by decide
theorem test_subn : after (.subn 0 1) (withRegs [(0, 5#8), (1, 7#8)]) (fun t => (t.reg 0, t.reg 15)) = some (2#8, 1#8) := by decide
theorem test_shr : after (.shr 1 2) (withRegs [(1, 5#8), (2, 8#8)]) (fun t => (t.reg 1, t.reg 15)) = some (2#8, 1#8) := by decide
theorem test_shr_quirk : after (.shr 1 2) { withRegs [(1, 5#8), (2, 8#8)] with q := { Quirks.allFalse with shift := true } }
    (fun t => (t.reg 1, t.reg 15)) = some (4#8, 0#8) := by decide
theorem test_shl : after (.shl 1 2) (withRegs [(1, 0x81#8), (2, 0x40#8)]) (fun t => (t.reg 1, t.reg 15)) = some (2#8, 1#8) := by decide
theorem test_shl_quirk : after (.shl 1 2) { withRegs [(1, 0x81#8), (2, 0x40#8)] with q := { Quirks.allFalse with shift := true } }
    (fun t => (t.reg 1, t.reg 15)) = some (0x80#8, 0#8) := by decide
theorem test_ldI : after (.ldI 0x300#12) State.reset (fun t => t.i) = some 0x300#16 := by decide
theorem test_jpV0 : after (.jpV0 0x210#12) (withRegs [(0, 4#8), (2, 0x10#8)]) (fun t => t.pc) = some 0x214#16 := by decide
theorem test_jpV0_quirk : after (.jpV0 0x210#12) { withRegs [(0, 4#8), (2, 0x10#8)] with q := { Quirks.allFalse with jump := true } }
    (fun t => t.pc) = some 0x220#16 := by decide
theorem test_rnd_mask_zero (s : State) : after (.rnd 3 0#8) s (fun t => t.reg 3) = some 0#8 := by
  have : s.drawnByte &&& 0#8 = 0#8 := BitVec.and_zero
  simp [after, exec, execRnd, nextOf, this, State.reg, State.nextDraw, State.setReg, State.setRegs]
theorem test_drw_clips : after (.drw 0 1 3) (((withBytes 0x300 [0xF0#8, 0x90#8, 0xFF#8]).setI 0x300#16).setReg 0 126#8 |>.setReg 1 62#8)
    (fun t => [t.fb.get 30 62, t.fb.get 30 63, t.fb.get 31 62, t.fb.get 31 63, t.fb.get 30 0, t.fb.get 0 62, t.reg 15 != 0#8]) =
    some [true, true, true, false, false, false, false] := by decide
theorem test_drw_collides : after (.drw 0 0 1)
    (((withBytes 0x300 [0xC0#8]).setI 0x300#16).setFb (Framebuffer.blank.put 0 1 true))
    (fun t => [t.fb.get 0 0, t.fb.get 0 1, t.reg 15 == 1#8]) = some [true, false, true] := by decide
theorem test_skp : after (.skp 1) { (withRegs [(1, 5#8)]).setPc 0x202#16 with keys := 0x0220#16 } (fun t => t.pc) = some 0x204#16 := by decide
theorem test_skp_above_15 : after (.skp 1) { (withRegs [(1, 0x15#8)]).setPc 0x202#16 with keys := 0x0220#16 } (fun t => t.pc) = some 0x202#16 := by decide
theorem test_sknp : after (.sknp 1) { (withRegs [(1, 5#8)]).setPc 0x202#16 with keys := 0x0220#16 } (fun t => t.pc) = some 0x202#16 := by decide
theorem test_sknp_above_15 : after (.sknp 1) { (withRegs [(1, 0x15#8)]).setPc 0x202#16 with keys := 0x0220#16 } (fun t => t.pc) = some 0x204#16 := by decide
theorem test_ldVxDt : after (.ldVxDt 3) (State.reset.setDt 0x2A#8) (fun t => t.reg 3) = some 0x2A#8 := by decide
theorem test_ldVxK_refreshes : after (.ldVxK 3) { State.reset.setPc 0x202#16 with wait := .awaiting 0#16, keys := 0x20#16 }
    (fun t => (t.wait, t.pc)) = some (.awaiting 0x20#16, 0x200#16) := by decide
/-- One key was released, so the free choice has one value. -/
theorem test_ldVxK_released : after (.ldVxK 3) { State.reset.setPc 0x202#16 with wait := .awaiting 0x20#16 }
    (fun t => (t.reg 3, t.wait, t.pc)) = some (5#8, .idle, 0x202#16) := by
  have hl : keyList 0x20#16 = [5] := by decide
  have hc : chooseKey 0x20#16 (Config.chosenIndex 0) = 5 := by
    rw [chooseKey, hl, List.length_singleton, Nat.mod_one]
    rfl
  show some (BitVec.ofNat 8 (chooseKey 0x20#16 (Config.chosenIndex 0)).val, WaitState.idle, 0x202#16) = _
  rw [hc]
  rfl
theorem test_ldDtVx : after (.ldDtVx 3) (withRegs [(3, 0x3C#8)]) (fun t => t.dt) = some 60#8 := by decide
theorem test_ldStVx : after (.ldStVx 3) (withRegs [(3, 2#8)]) (fun t => (t.st, t.audio)) = some (2#8, .pause) := by decide
theorem test_addI : after (.addI 1) ((withRegs [(1, 3#8), (15, 9#8)]).setI 0xFFE#16) (fun t => (t.i, t.reg 15)) = some (0x1001#16, 9#8) := by decide
theorem test_addI_quirk : after (.addI 1) { (withRegs [(1, 3#8)]).setI 0xFFE#16 with q := { Quirks.allFalse with addi := true } }
    (fun t => (t.i, t.reg 15)) = some (0x1001#16, 1#8) := by decide
theorem test_ldF_above_15 : after (.ldF 0) ((withRegs [(0, 0x1A#8)]).setI 0x300#16) (fun t => t.i) = some 0x300#16 := by decide
theorem test_ldB : after (.ldB 0) ((withRegs [(0, 254#8)]).setI 0x300#16) (fun t => [t.byteAt 0x300, t.byteAt 0x301, t.byteAt 0x302]) =
    some [2#8, 5#8, 4#8] := by decide
theorem test_stRegs : after (.stRegs 2) { (withRegs [(0, 0x11#8), (1, 0x22#8), (2, 0x33#8), (3, 0x44#8)]).setI 0x400#16 with q := { Quirks.allFalse with mem := true } }
    (fun t => ([t.byteAt 0x400, t.byteAt 0x401, t.byteAt 0x402, t.byteAt 0x403], t.i)) =
    some ([0x11#8, 0x22#8, 0x33#8, 0#8], 0x403#16) := by decide
theorem test_stRegs_out_of_range : after (.stRegs 2) ((withRegs [(0, 1#8)]).setI 0xFFE#16) (fun t => (t.mem, t.failure.isSome)) = some ([], true) := by decide
theorem test_ldRegs : after (.ldRegs 2) ((withBytes 0x300 [2#8, 5#8, 4#8, 7#8]).setI 0x300#16) (fun t => ([t.reg 0, t.reg 1, t.reg 2, t.reg 3], t.i)) =
    some ([2#8, 5#8, 4#8, 0#8], 0x300#16) := by decide

/-! ### Messages and the drain -/

theorem test_step_underflow : (nextOf (step { withBytes 0x200 [0x00#8, 0xEE#8] with inq := [.command .step] })).map
    (fun t => (t.pc, t.outq, t.run)) =
    some (0x202#16, [.stepResult (some { kind := .stackUnderflow, addr := 0x200#16, word := 0x00EE#16 })], .stopped) := by decide
theorem test_tick_budget : [0#32, 1#32, 60#32, 61#32, 600#32, 700#32, 1000#32, 60000#32, 60001#32, 500000#32].map tickBudget =
    [0, 1, 1, 2, 10, 12, 17, 1000, 1000, 8333] := by decide
theorem test_tick : (nextOf (step { queued .tick with run := .running 700#32, dt := 3#8, st := 0#8 })).map
    (fun t => (t.budget, t.dt, t.st)) = some (12, 2#8, 0#8) := by decide
theorem test_load : (nextOf (step (queued (.command (.loadProgram [0x00#8, 0xE0#8, 0x12#8, 0x02#8]))))).map
    (fun t => (t.mem, t.pc, t.outq)) =
    some ([(0x201, 0xE0#8), (0x202, 0x12#8), (0x203, 0x02#8)], 0x200#16, [.loadResult none]) := by decide
theorem test_drain_failure : (nextOf (step (drainingAt 3 [0x00#8, 0xEE#8]))).map (fun t => (t.budget, t.run, t.outq)) =
    some (0, .stopped, [.runError { kind := .stackUnderflow, addr := 0x200#16, word := 0x00EE#16 }]) := by decide
theorem test_sound_is_heard : (nextOf (step { drainingAt 1 [0xF3#8, 0x18#8] with x := (withRegs [(3, 1#8)]).x })).map
    (fun t => (t.st, t.audio)) = some (1#8, .play) := by decide
theorem test_reset_waits : nextOf (step State.reset) = some State.reset := by rfl
theorem test_withFetchWord : (nextOf (step (State.reset.withFetchWord 16 0x60FE))).map (fun t => (t.reg 0, t.pc)) =
    some (0xFE#8, 0x202#16) := by decide

/-! ### Witnesses: the hypotheses of the statements can be met -/

theorem witness_DecodeReadsBackEncode : (Instr.sys 0xFFF#12).wf = true ∧ (Instr.drw 15 15 15).wf = true := by decide

theorem witness_EncodeReadsBackDecode : decodeWord 0xFF65#16 = .ok (.ldRegs 15) := by decide

theorem witness_StepExecutesTheDecodedInstruction_drain :
    ∃ s : State, s.pc.toNat = 4094 ∧ decode [s.byteAt s.pc.toNat, s.byteAt (s.pc.toNat + 1)] = .ok (.ldImm 0 1#8, []) ∧
      s.draining = true :=
  ⟨{ withBytes 4094 [0x60#8, 0x01#8] with pc := 4094#16, run := .running 60#32, budget := 1 }, by decide, by decide, by decide⟩

theorem witness_StepExecutesTheDecodedInstruction_step :
    ∃ s : State, s.pc.toNat ≤ 4094 ∧ decode [s.byteAt s.pc.toNat, s.byteAt (s.pc.toNat + 1)] = .ok (.ldImm 0 1#8, []) ∧
      Delivered (.command .step) [] s :=
  ⟨{ withBytes 0x200 [0x60#8, 0x01#8] with inq := [.command .step] }, by decide, by decide, rfl, rfl, rfl⟩

theorem witness_FetchBeyondMemoryFails : 4094 < (State.reset.setPc 4095#16).pc.toNat := by decide

theorem witness_UnknownWordFailsAfterTheAdvance :
    ∃ (s t : State) (f : Failure), s.fetchWord = some 0x5121#16 ∧ UnknownWord 0x5121#16 ∧ engineStep s = .next t ∧
      t.failure = some f ∧ f.kind = .unknownInstruction :=
  ⟨withBytes 0x200 [0x51#8, 0x21#8], _, { kind := .unknownInstruction, addr := 0x200#16, word := 0x5121#16 },
    by decide, by unfold UnknownWord; decide, rfl, by decide, rfl⟩

theorem witness_FailedStep_word : ∃ (s t : State) (f : Failure) (w : Word),
    engineStep s = .next t ∧ t.failure = some f ∧ s.fetchWord = some w :=
  ⟨withBytes 0x200 [0x00#8, 0xEE#8], _, { kind := .stackUnderflow, addr := 0x200#16, word := 0x00EE#16 }, 0x00EE#16,
    rfl, by decide, by decide⟩

theorem witness_FailedStep_fetch : ∃ (s t : State) (f : Failure),
    engineStep s = .next t ∧ t.failure = some f ∧ s.fetchWord = none :=
  ⟨State.reset.setPc 4095#16, _, { kind := .memoryOutOfBounds, addr := 4095#16, word := 0#16 }, rfl, by decide, by decide⟩

theorem witness_exec_next : ∃ t, exec .cls State.reset = .next t := ⟨_, rfl⟩

theorem witness_RetPopsOrUnderflows :
    (State.reset.push 4095#16).stack = 4095#16 :: [] ∧ 4094 < (4095#16 : Word).toNat ∧ State.reset.stack = [] := by decide

theorem witness_SysFollowsTheOpenParameter : (0x0E1#12 : Addr12) ≠ 0x0E0#12 ∧ (0x0E1#12 : Addr12) ≠ 0x0EE#12 := by decide

theorem witness_JpSelfJump : ∃ s : State, s.failure = none ∧ s.fetchWord = some (BitVec.ofNat 16 (0x1000 + s.pc.toNat)) :=
  ⟨{ withBytes 4094 [0x1F#8, 0xFE#8] with pc := 4094#16 }, rfl, by decide⟩

theorem witness_AddSetsCarry : (0 : RegIdx) ≠ 15 := by decide

theorem witness_IndirectJump : ∃ (s t : State) (x : RegIdx), s.q.jump = true ∧ x.val = (0xFFF#12 : Addr12).toNat / 256 ∧
    exec (.jpV0 0xFFF#12) s = .next t ∧ 4095 ≤ t.pc.toNat :=
  ⟨{ State.reset with q := { Quirks.allFalse with jump := true } }, _, 15, rfl, by decide, rfl, by decide⟩

theorem witness_IndirectJump_default : State.reset.q.jump = false := rfl

theorem witness_DrawInvertsPixels : (State.reset.setI 4093#16).i.toNat + (3 : Fin 16).val ≤ 4096 ∧ (0 : Fin 16).val = 0 := by decide

theorem witness_DrawOutOfRange : 0 < (3 : Fin 16).val ∧ 4096 < (State.reset.setI 4094#16).i.toNat + (3 : Fin 16).val := by decide

theorem witness_DrawingTwice : ∃ s t u : State, s.i.toNat + (1 : Fin 16).val ≤ 4096 ∧ exec (.drw 0 1 1) s = .next t ∧
    (t.reg 0).toNat % 64 = (s.reg 0).toNat % 64 ∧ (t.reg 1).toNat % 32 = (s.reg 1).toNat % 32 ∧
    exec (.drw 0 1 1) t = .next u :=
  ⟨(withBytes 0x300 [0xFF#8]).setI 0x300#16, _, _, by decide, rfl, by decide, by decide, rfl⟩

theorem witness_KeyWait_idle : State.reset.wait = .idle := rfl

theorem witness_KeyWait_held : ∃ (s : State) (snapshot : KeySet), s.wait = .awaiting snapshot ∧
    ∀ k : RegIdx, snapshot.getLsbD k.val = true → s.keys.getLsbD k.val = true :=
  ⟨{ State.reset with wait := .awaiting 0x8001#16, keys := 0x8001#16 }, 0x8001#16, rfl, by decide⟩

theorem witness_KeyWait_released : ∃ (s : State) (snapshot : KeySet), s.wait = .awaiting snapshot ∧
    ∃ k : RegIdx, snapshot.getLsbD k.val = true ∧ s.keys.getLsbD k.val = false :=
  ⟨{ State.reset with wait := .awaiting 0x8000#16 }, 0x8000#16, rfl, 15, by decide⟩

theorem witness_KeyWait_other : (∀ x, Instr.cls ≠ .ldVxK x) ∧ ∃ t, exec .cls State.reset = .next t := ⟨by simp, _, rfl⟩

theorem witness_KeyWait_engine : ∃ s : State, ∀ w x, s.fetchWord = some w → decodeWord w ≠ .ok (.ldVxK x) :=
  ⟨withBytes 0x200 [0x00#8, 0xE0#8], fun w x h => by
    have hw : w = 0x00E0#16 := by
      rw [show (withBytes 0x200 [0x00#8, 0xE0#8]).fetchWord = some 0x00E0#16 by decide] at h
      exact (Option.some.inj h).symm
    subst hw
    exact fun h => nomatch (show Except.ok Instr.cls = Except.ok (Instr.ldVxK x) from h)⟩

theorem witness_KeyWait_message : (Message.tick ≠ .command .step ∧
    ∀ bytes, Message.tick = .command (.loadProgram bytes) → 3584 < bytes.length) ∧
    ∃ t, handle .tick State.reset = .next t := ⟨by simp, _, rfl⟩

theorem witness_KeyWait_load : ([] : List Byte).length ≤ 3584 ∧ ∃ t, handle (.command (.loadProgram [])) State.reset = .next t :=
  ⟨by decide, _, rfl⟩

theorem witness_LoadFontAddress : ((withRegs [(0, 15#8)]).reg 0).toNat ≤ 15 ∧ 15 < ((withRegs [(0, 16#8)]).reg 0).toNat := by decide

theorem witness_DecimalStore : (State.reset.setI 4093#16).mem.wf = true ∧ (State.reset.setI 4093#16).address + 3 ≤ 4096 ∧
    4096 < (State.reset.setI 4094#16).address + 3 := by decide

theorem witness_BulkStore : (State.reset.setI 4080#16).mem.wf = true ∧
    (State.reset.setI 4080#16).address + (15 : RegIdx).val + 1 ≤ 4096 ∧
    4096 < (State.reset.setI 4081#16).address + (15 : RegIdx).val + 1 := by decide

theorem witness_BulkLoad : (State.reset.setI 4095#16).i.toNat + (0 : RegIdx).val + 1 ≤ 4096 ∧
    4096 < (State.reset.setI 4096#16).i.toNat + (0 : RegIdx).val + 1 := by decide

theorem witness_Delivered (m : Message) : Delivered m [] (queued m) := ⟨rfl, rfl, rfl⟩

theorem witness_LoadSettings_other : (∀ quirks, Message.tick ≠ .command (.loadSettings quirks)) ∧
    ∃ t, handle .tick State.reset = .next t := ⟨by simp, _, rfl⟩

theorem witness_LoadProgramAccepted : (List.replicate 3584 0#8 : List Byte).length ≤ 3584 := by
  rw [List.length_replicate]

theorem witness_LoadProgramRejected : 3584 < (List.replicate 3585 0#8 : List Byte).length ∧
    ∃ s t : State, step s = .next t ∧ .loadResult (some .programTooLarge) ∈ t.outq :=
  ⟨by rw [List.length_replicate]; decide, { State.reset with outq := [.loadResult (some .programTooLarge)] }, _, rfl,
    by simp⟩

theorem witness_QueryState : State.reset.run = .stopped ∧
    (drainingAt 0 []).run = .running 60#32 := ⟨rfl, rfl⟩

theorem witness_Drain_ok : ∃ (s u : State) (rate : Rate), s.run = .running rate ∧ 0 < s.budget ∧ engineStep s = .next u ∧
    u.failure = none :=
  ⟨drainingAt 1 [0x12#8, 0x00#8], _, 60#32, rfl, by decide, rfl, by decide⟩

theorem witness_Drain_fail : ∃ (s u : State) (rate : Rate) (f : Failure), s.run = .running rate ∧ 0 < s.budget ∧
    engineStep s = .next u ∧ u.failure = some f :=
  ⟨drainingAt 1 [0x00#8, 0xEE#8], _, 60#32, { kind := .stackUnderflow, addr := 0x200#16, word := 0x00EE#16 }, rfl,
    by decide, rfl, by decide⟩

theorem witness_Drain_whole : ∃ (s u : State) (rate : Rate), s.run = .running rate ∧ 0 < s.budget ∧
    engineRun s.budget s = some u :=
  ⟨drainingAt 2 [0x12#8, 0x00#8], _, 60#32, rfl, by decide, rfl⟩

theorem witness_Audio : ∃ s t : State, step s = .next t ∧ (s.draining = true ∨ s.inq ≠ []) ∧ t.draining = false ∧
    0 < t.st.toNat :=
  ⟨{ queued .tick with st := 2#8 }, _, rfl, by decide, by decide, by decide⟩

theorem witness_Audio_silent : ∃ s t : State, step s = .next t ∧ (s.draining = true ∨ s.inq ≠ []) ∧ t.draining = false ∧
    t.st.toNat = 0 :=
  ⟨{ queued .tick with st := 1#8 }, _, rfl, by decide, by decide, by decide⟩

theorem witness_OnlyShutdown : State.reset.draining = false ∧ State.reset.inqOpen = true ∧ State.reset.inq = [] := by decide

theorem witness_StepKeepsInv : ∃ s t : State, Inv s ∧ step s = .next t :=
  ⟨queued .tick, _, ⟨rfl, by decide, fun _ h => absurd h (by simp [queued, State.reset]),
    fun _ h => absurd h (by simp [queued, State.reset]), fun h => absurd h (by decide), rfl, fun _ => rfl⟩, rfl⟩

theorem witness_Reachable : ∃ s, Reachable s := ⟨State.reset, .reset⟩

theorem witness_MemoryPrimitives : Memory.wf [] = true ∧ 4096 < 4096 + 1 ∧ 4096 < 4095 + 2 ∧ 4095 + 1 ≤ 4096 ∧
    4094 + 2 ≤ 4096 := by decide

/-- The decimal store reaches only the second byte of the next instruction, at the top of memory. -/
theorem witness_StoresAreSeen_decimal : ∃ s : State, s.mem.wf = true ∧ s.pc.toNat = 4092 ∧ s.address = 4093 ∧
    s.pc.toNat ≤ 4094 ∧ s.address + 3 ≤ 4096 :=
  ⟨(State.reset.setI 4093#16).setPc 4092#16, rfl, rfl, rfl, by decide, by decide⟩

/-- The bulk store ends on the first byte of the next instruction. -/
theorem witness_StoresAreSeen_bulk : ∃ (s : State) (x : RegIdx), s.mem.wf = true ∧ s.pc.toNat = 4094 ∧
    s.address + x.val = 4094 ∧ s.pc.toNat ≤ 4094 ∧ s.address + x.val + 1 ≤ 4096 :=
  ⟨(State.reset.setI 4079#16).setPc 4094#16, 15, rfl, rfl, rfl, by decide, by decide⟩

end Sys2Proof.Machine.Tests
end

section
/-! The invariant of every reachable state (R4, R24, R26, R36, R39, R224). What an instruction can do to the control state
is said once (`exec_flow`, `exec_ldVxK_cases`); the parts of `Inv` that the engine can break (`EngineInv`), those that hold
inside a step of the worker (`MidStepInv`) and `Inv` itself are then kept by instructions, by messages and by actions. -/

namespace Sys2Proof.Machine

/-! ### What an instruction does to the control state -/

/-- `t` has the control state of `s` (counter, memory, stack, key wait) and its host fields; it may differ in the registers,
`I`, the screen, the timers, the draw counter and the engine's result. -/
structure SameControl (s t : State) : Prop where
  pc : t.pc = s.pc := by rfl
  mem : t.mem = s.mem := by rfl
  stack : t.stack = s.stack := by rfl
  wait : t.wait = s.wait := by rfl
  host : t.withHost s = t := by rfl

/-- The ways an instruction other than the key wait can move the control state, `s.pc` being advanced already. -/
inductive Flow (s : State) : State → Prop where
  | falls {t : State} (h : SameControl s t) : Flow s t
  | skips (c : Bool) : Flow s (s.skipIf c)
  | jumps (v : Word) (hv : v.toNat ≤ 0x10FE) : Flow s (s.setPc v)
  | calls (v : Word) (hv : v.toNat ≤ 0x10FE) : Flow s ((s.push s.pc).setPc v)
  | returns (a : Word) (rest : List Word) (h : s.stack = a :: rest) : Flow s ((s.setStack rest).setPc a)
  | stores {t : State} (a : Nat) (bs : List Byte) (ha : a + bs.length ≤ 4096) (h : SameControl (s.store a bs) t) :
      Flow s t

/-- An instruction that branches does one or the other. -/
theorem Flow.ite {s t u : State} {p : Prop} [Decidable p] (ht : p → Flow s t) (hu : Flow s u) :
    Flow s (if p then t else u) := by
  split
  case isTrue h => exact ht h
  case isFalse => exact hu

/-- A failure raised by an instruction moves nothing (R257). -/
theorem Flow.raise (s : State) (k : FailureKind) (i : Instr) : Flow s (s.raise k i) :=
  .falls {}

/-- A bulk transfer moves nothing but `I` after its bytes (R196, R197). -/
theorem SameControl.advanceI {s t : State} (h : SameControl s t) (last : RegIdx) :
    SameControl s (t.advanceI last) := by
  rw [State.advanceI_eq]
  exact ⟨h.pc, h.mem, h.stack, h.wait, congrArg (State.setI · _) h.host⟩

/-- A 12-bit target lies within the bound on `pc` (R24). -/
theorem Addr12.zext_toNat_le (a : Addr12) : (Addr12.zext a).toNat ≤ 0x10FE := by
  rw [Addr12.zext_toNat]
  omega

/-- The target of the indirect jump is at most `0xFFF + 0xFF` (R24, R161). -/
theorem State.jumpTarget_toNat_le (s : State) (nnn : Addr12) : (s.jumpTarget nnn).toNat ≤ 0x10FE := by
  rw [State.jumpTarget_toNat]
  omega

/-- What every instruction but the key wait can do to the control state. -/
theorem exec_flow {i : Instr} {s t : State} (hi : ∀ x, i ≠ .ldVxK x) (h : exec i s = .next t) : Flow s t := by
  cases i <;> obtain rfl := Host.Outcome.next.inj h
  case ldVxK x => exact absurd rfl (hi x)
  case ret =>
    split
    case h_1 => exact .raise ..
    case h_2 a rest hs => exact .returns a rest hs
  case sys =>
    split
    case h_1 => exact .raise ..
    case h_2 => exact .falls {}
  case jp nnn => exact .jumps _ (Addr12.zext_toNat_le nnn)
  case jpV0 nnn => exact .jumps _ (s.jumpTarget_toNat_le nnn)
  case call nnn => exact .calls _ (Addr12.zext_toNat_le nnn)
  case seImm | sneImm | seReg | sneReg | skp | sknp => exact .skips _
  case drw => exact .ite (fun _ => .falls {}) (.raise ..)
  case addI | ldF => exact .ite (fun _ => .falls {}) (.falls {})
  case ldB x =>
    refine .ite (fun hr => .stores s.address (decimalDigits (s.reg x)) ?_ {}) (.raise ..)
    exact (inRange_pos (n := 3) (by decide)).mp hr
  case stRegs x =>
    refine .ite (fun hr => .stores s.address (s.regsUpTo x) ?_ (.advanceI {} x)) (.raise ..)
    rw [State.regsUpTo_length]
    exact (inRange_pos (by omega)).mp hr
  case ldRegs x =>
    exact .ite (fun _ => .falls (.advanceI (t := s.setRegs _) {} x)) (.raise ..)
  -- the other instructions write registers, `I`, the screen or the timers only
  all_goals exact .falls {}

/-- A poll of the key wait goes on waiting, or ends the wait (R183, R184). -/
theorem exec_ldVxK_cases {x : RegIdx} {s t : State} (h : exec (.ldVxK x) s = .next t) :
    t = s.keepWaiting ∨ ∃ released, t = s.endWait x released := by
  obtain rfl := Host.Outcome.next.inj h
  split
  case h_1 => exact .inl rfl
  case h_2 snapshot _ =>
    split
    case isTrue => exact .inl rfl
    case isFalse => exact .inr ⟨_, rfl⟩

section
variable {s t : State}

theorem Flow.wait_eq (h : Flow s t) : t.wait = s.wait := by
  cases h with
  | falls h => exact h.wait
  | skips c => rw [State.skipIf_eq, State.setPc_wait]
  | stores _ _ _ h => exact h.wait
  | jumps | calls | returns => rfl

theorem Flow.host (h : Flow s t) : t.withHost s = t := by
  cases h with
  | falls h => exact h.host
  | skips c => rw [State.skipIf_eq]; rfl
  | stores _ _ _ h => exact h.host
  | jumps | calls | returns => rfl

/-- Memory keeps its canonical form: a store was checked to lie inside it (R69). -/
theorem Flow.mem_wf (h : Flow s t) (hm : s.mem.wf = true) : t.mem.wf = true := by
  cases h with
  | falls h => rwa [h.mem]
  | skips c => rwa [State.skipIf_eq]
  | stores a bs ha h => rw [h.mem]; exact Memory.wf_writeBytes hm ha
  | jumps | calls | returns => exact hm

/-- From an advanced counter and bounded return addresses, `pc` keeps its bound (R24). -/
theorem Flow.pc_le (h : Flow s t) (hpc : s.pc.toNat ≤ 4096) (hs : ∀ a ∈ s.stack, a.toNat ≤ 4096) :
    t.pc.toNat ≤ 0x10FE := by
  cases h with
  | falls h | stores _ _ _ h => rw [h.pc]; exact hpc.trans (by decide)
  | skips c =>
    rw [State.skipIf_eq, State.setPc_pc]
    split <;> bv_omega
  | jumps v hv | calls v hv => exact hv
  | returns a rest hr => exact (hs a (hr ▸ List.mem_cons_self)).trans (by decide)

/-- Only a call pushes, and it pushes the advanced counter (R39). -/
theorem Flow.stack_le (h : Flow s t) (hpc : s.pc.toNat ≤ 4096) (hs : ∀ a ∈ s.stack, a.toNat ≤ 4096) :
    ∀ a ∈ t.stack, a.toNat ≤ 4096 := by
  cases h with
  | falls h | stores _ _ _ h => rwa [h.stack]
  | skips c => rwa [State.skipIf_eq]
  | jumps => exact hs
  | calls => exact List.forall_mem_cons.mpr ⟨hpc, hs⟩
  | returns a rest hr => exact fun b hb => hs b (hr ▸ List.mem_cons_of_mem a hb)

end

/-- No instruction writes a field of the host (R35, R76). -/
theorem exec_host {i : Instr} {s t : State} (h : exec i s = .next t) : t.withHost s = t := by
  by_cases hi : ∃ x, i = .ldVxK x
  · obtain ⟨x, rfl⟩ := hi
    obtain rfl | ⟨released, rfl⟩ := exec_ldVxK_cases h <;> rfl
  · exact (exec_flow (not_exists.mp hi) h).host

/-- The engine writes no field of the host. -/
theorem engineStep_host {s t : State} (h : engineStep s = .next t) : t.withHost s = t := by
  obtain ⟨_, rfl⟩ | ⟨w, e, _, _, rfl⟩ | ⟨w, i, _, _, h⟩ := engineStep_cases h
  · rfl
  · rfl
  · exact (exec_host h : t.withHost s.advanced = t)

theorem engineStep_run {s t : State} (h : engineStep s = .next t) : t.run = s.run :=
  (congrArg State.run (engineStep_host h)).symm

theorem engineStep_budget {s t : State} (h : engineStep s = .next t) : t.budget = s.budget :=
  (congrArg State.budget (engineStep_host h)).symm

/-! ### The parts of the invariant that the engine could break -/

/-- The clauses of `Inv` about the Virtual Machine State. -/
structure EngineInv (s : State) : Prop where
  memWf : s.mem.wf = true
  pcBound : s.pc.toNat ≤ 0x10FE
  stackBound : ∀ a ∈ s.stack, a.toNat ≤ 4096
  waitAtKeyWait : ∀ snapshot, s.wait = .awaiting snapshot →
    ∃ w x, s.fetchWord = some w ∧ decodeWord w = .ok (.ldVxK x)

namespace EngineInv
variable {s t : State}

/-- `EngineInv` reads nothing but the counter, memory, the stack and the key wait. -/
theorem congr (hs : EngineInv s) (hpc : t.pc = s.pc := by rfl) (hmem : t.mem = s.mem := by rfl)
    (hstack : t.stack = s.stack := by rfl) (hwait : t.wait = s.wait := by rfl) : EngineInv t where
  memWf := hmem ▸ hs.memWf
  pcBound := hpc ▸ hs.pcBound
  stackBound := hstack ▸ hs.stackBound
  waitAtKeyWait := by
    rw [State.fetchWord, hpc, hmem, hwait]
    exact hs.waitAtKeyWait

/-- With no key wait pending, the last clause asks nothing. -/
theorem of_idle (hmem : t.mem.wf = true) (hpc : t.pc.toNat ≤ 0x10FE) (hstack : ∀ a ∈ t.stack, a.toNat ≤ 4096)
    (hwait : t.wait = .idle) : EngineInv t :=
  ⟨hmem, hpc, hstack, fun _ h => nomatch hwait.symm.trans h⟩

/-- A key wait is pending only where the fetched word is a key wait. -/
theorem wait_idle (hs : EngineInv s) {w : Word} (hw : s.fetchWord = some w)
    (hd : ∀ x, decodeWord w ≠ .ok (.ldVxK x)) : s.wait = .idle := by
  cases hwait : s.wait with
  | idle => rfl
  | awaiting snapshot =>
    obtain ⟨w', x, hw', hx⟩ := hs.waitAtKeyWait snapshot hwait
    obtain rfl := Option.some.inj (hw.symm.trans hw')
    exact absurd hx (hd x)

end EngineInv

/-- A counter at which a word was fetched advances without wrapping, to 4096 at most (R24). -/
theorem State.advanced_pc_le {s : State} {w : Word} (hw : s.fetchWord = some w) : s.advanced.pc.toNat ≤ 4096 := by
  have := State.pc_le_of_fetchWord hw
  rw [State.advanced_pc]
  bv_omega

/-- The rewind of a pending key wait undoes the advance (R183). -/
theorem State.keepWaiting_advanced_pc (s : State) : s.advanced.keepWaiting.pc = s.pc :=
  BitVec.add_sub_cancel s.pc 2#16

/-- A poll of the key wait keeps the invariant: it goes on at its own address, or the wait is over (R39, R184). -/
theorem EngineInv.exec_ldVxK {s t : State} {w : Word} {x : RegIdx} (hs : EngineInv s) (hw : s.fetchWord = some w)
    (hd : decodeWord w = .ok (.ldVxK x)) (h : exec (.ldVxK x) s.advanced = .next t) : EngineInv t := by
  obtain rfl | ⟨released, rfl⟩ := exec_ldVxK_cases h
  · have hpc := s.keepWaiting_advanced_pc
    have hfetch : s.advanced.keepWaiting.fetchWord = s.fetchWord :=
      congrArg (fun a : Word => s.mem.read2 a.toNat) hpc
    exact ⟨hs.memWf, hpc ▸ hs.pcBound, hs.stackBound, fun _ _ => ⟨w, x, hfetch.trans hw, hd⟩⟩
  · exact .of_idle hs.memWf ((State.advanced_pc_le hw).trans (by decide)) hs.stackBound rfl

/-- Every step of the engine keeps the invariant's engine part. -/
theorem EngineInv.engineStep {s t : State} (hs : EngineInv s) (h : engineStep s = .next t) : EngineInv t := by
  obtain ⟨_, rfl⟩ | ⟨w, e, hw, hd, rfl⟩ | ⟨w, i, hw, hd, h⟩ := engineStep_cases h
  · exact hs.congr
  · exact .of_idle hs.memWf ((State.advanced_pc_le hw).trans (by decide)) hs.stackBound
      (hs.wait_idle hw fun x => by simp [hd])
  · by_cases hi : ∃ x, i = .ldVxK x
    · obtain ⟨x, rfl⟩ := hi
      exact hs.exec_ldVxK hw hd h
    · have hflow := exec_flow (not_exists.mp hi) h
      have hpc := State.advanced_pc_le hw
      have hidle : s.wait = .idle := hs.wait_idle hw fun x hx =>
        hi ⟨x, Except.ok.inj (hd.symm.trans hx)⟩
      exact .of_idle (hflow.mem_wf hs.memWf) (hflow.pc_le hpc hs.stackBound) (hflow.stack_le hpc hs.stackBound)
        (hflow.wait_eq.trans hidle)

/-- A load resets the control state, and its image fits the memory (R213, R291). -/
theorem EngineInv.loadProgram {s : State} (hs : EngineInv s) (bytes : List Byte) : EngineInv (s.loadProgram bytes) := by
  rw [State.loadProgram]
  split
  case isTrue => exact hs.congr
  case isFalse hlen =>
    refine .of_idle (Memory.wf_image ?_) (show (0x200#16).toNat ≤ 0x10FE by decide) (fun _ h => nomatch h) rfl
    simp only [Config.maxProgram, Config.memSize, Config.loadOffset] at hlen ⊢
    omega

/-! ### Inside a step of the worker -/

/-! A load writes neither the run state nor the budget nor the engine's result, accepted or not (R213, R291). -/

@[simp] theorem State.loadProgram_run (s : State) (bytes : List Byte) : (s.loadProgram bytes).run = s.run := by
  unfold State.loadProgram
  split <;> rfl

@[simp] theorem State.loadProgram_budget (s : State) (bytes : List Byte) : (s.loadProgram bytes).budget = s.budget := by
  unfold State.loadProgram
  split <;> rfl

@[simp] theorem State.loadProgram_failure (s : State) (bytes : List Byte) :
    (s.loadProgram bytes).failure = s.failure := by
  unfold State.loadProgram
  split <;> rfl

/-- `Inv` without the audio level, which is only evaluated at the end of a message (R224). -/
structure MidStepInv (s : State) : Prop extends EngineInv s where
  budgetRunning : 0 < s.budget → s.run.isRunning = true
  resultTaken : s.failure = none

theorem Inv.midStep {s : State} (h : Inv s) : MidStepInv s :=
  ⟨⟨h.memWf, h.pcBound, h.stackBound, h.waitAtKeyWait⟩, h.budgetRunning, h.resultTaken⟩

/-- The end of a message establishes the audio level unless instructions are still owed (R224). -/
theorem MidStepInv.finishMessage {s : State} (h : MidStepInv s) : Inv s.finishMessage := by
  rw [State.finishMessage_eq]
  exact ⟨h.memWf, h.pcBound, h.stackBound, h.waitAtKeyWait, h.budgetRunning, h.resultTaken,
    fun hb => if_neg (by simp [State.not_draining_of_budget (s := s) hb])⟩

/-- The worker takes the result of a drained step: it spends budget, or stops the run and forfeits it (R222, R223). -/
theorem MidStepInv.accountDrained {s : State} (hs : EngineInv s) (hrun : s.run.isRunning = true) :
    MidStepInv s.accountDrained := by
  cases hf : s.failure with
  | none =>
    rw [State.accountDrained_ok hf]
    exact ⟨hs.congr, fun _ => hrun, rfl⟩
  | some f =>
    rw [State.accountDrained_fail hf]
    exact ⟨hs.congr, fun hb => absurd hb (Nat.lt_irrefl 0), rfl⟩

/-- A tick grants a budget only while running (R220). -/
theorem MidStepInv.handleTick {s : State} (h : MidStepInv s) : MidStepInv s.handleTick := by
  refine ⟨h.toEngineInv.congr, ?_, h.resultTaken⟩
  cases hr : s.run with
  | stopped => simpa [State.handleTick, hr] using h.budgetRunning
  | running rate => simp [State.handleTick, hr, RunState.isRunning]

/-- Every message keeps the invariant, up to the audio level. -/
theorem MidStepInv.handle {m : Message} {s t : State} (hs : MidStepInv s) (h : handle m s = .next t) : MidStepInv t := by
  have he := hs.toEngineInv
  rcases m with c | _
  · cases c with
    | step =>
      obtain ⟨u, hu, rfl⟩ := mapNext_eq_next h
      have hb : 0 < u.budget → u.run.isRunning = true := by
        rw [engineStep_budget hu, engineStep_run hu]
        exact hs.budgetRunning
      exact ⟨(he.engineStep hu).congr, hb, rfl⟩
    | loadProgram bytes =>
      obtain rfl := Host.Outcome.next.inj h
      exact ⟨he.loadProgram bytes, by simpa using hs.budgetRunning, by simpa using hs.resultTaken⟩
    | runProgram rate =>
      obtain rfl := Host.Outcome.next.inj h
      exact ⟨he.congr, fun _ => rfl, hs.resultTaken⟩
    | stop =>
      obtain rfl := Host.Outcome.next.inj h
      exact ⟨he.congr, fun hb => absurd hb (Nat.lt_irrefl 0), hs.resultTaken⟩
    | loadSettings | queryDisplay | queryState | sendKeys =>
      obtain rfl := Host.Outcome.next.inj h
      exact ⟨he.congr, hs.budgetRunning, hs.resultTaken⟩
  · obtain rfl := Host.Outcome.next.inj h
    exact hs.handleTick

/-! ### Steps, actions and reachable states -/

theorem State.run_isRunning_of_draining {s : State} (h : s.draining = true) : s.run.isRunning = true := by
  simp only [State.draining, Bool.and_eq_true] at h
  exact h.2

theorem inv_reset : Inv State.reset where
  memWf := rfl
  pcBound := by decide
  stackBound _ h := nomatch h
  waitAtKeyWait _ h := nomatch h
  budgetRunning h := absurd h (Nat.lt_irrefl 0)
  resultTaken := rfl
  audioLevel _ := rfl

/-- The invariant reads no queue. -/
theorem Inv.setQueues {s : State} (h : Inv s) (inq : List Message) (inqOpen : Bool) (outq : List Response) :
    Inv { s with inq := inq, inqOpen := inqOpen, outq := outq } :=
  ⟨h.memWf, h.pcBound, h.stackBound, h.waitAtKeyWait, h.budgetRunning, h.resultTaken, h.audioLevel⟩

/-- A step of the worker keeps the invariant, whether it executes an owed instruction, handles a message or waits (R211). -/
theorem Inv.step {s t : State} (hs : Inv s) (h : step s = .next t) : Inv t := by
  obtain ⟨hd, u, hu, rfl⟩ | ⟨_, _, m, rest, u, _, hu, rfl⟩ | ⟨_, _, _, rfl⟩ := step_cases h
  · have hrun : u.run.isRunning = true := by
      rw [engineStep_run hu]
      exact State.run_isRunning_of_draining hd
    exact (MidStepInv.accountDrained (hs.midStep.engineStep hu) hrun).finishMessage
  · exact ((hs.setQueues rest s.inqOpen s.outq).midStep.handle hu).finishMessage
  · exact hs

theorem Inv.enqueue {s : State} (hs : Inv s) (m : Message) : Inv (s.enqueue m) := by
  rw [State.enqueue]
  split
  case isTrue => exact hs.setQueues (s.inq ++ [m]) s.inqOpen s.outq
  case isFalse => exact hs

/-- Every action of every agent keeps the invariant (R4). -/
theorem Inv.act {a : Action} {s t : State} (hs : Inv s) (h : act a s = .next t) : Inv t := by
  cases a with
  | worker => exact hs.step h
  | timer =>
    obtain rfl := Host.Outcome.next.inj h
    exact hs.enqueue .tick
  | send c =>
    obtain rfl := Host.Outcome.next.inj h
    exact hs.enqueue (.command c)
  | poll =>
    obtain rfl := Host.Outcome.next.inj h
    exact hs.setQueues s.inq s.inqOpen []
  | close =>
    obtain rfl := Host.Outcome.next.inj h
    exact hs.setQueues s.inq false s.outq

/-- Settles O56, by induction on the actions from power-on. -/
theorem everyReachableStateMeetsInv : Obligations.EveryReachableStateMeetsInv := by
  unfold Obligations.EveryReachableStateMeetsInv
  intro s hs
  induction hs with
  | reset => exact inv_reset
  | act a _ h ih => exact ih.act h

end Sys2Proof.Machine
end

section
/-! The state, its invariant and its power-on values (R20 to R41): no instruction reads the sound timer or a field of the
host (`exec_withUnread`, one case analysis for both claims), and the single steps of the invariant settled. -/

namespace Sys2Proof.Machine

/-! ### The instructions that look at the stack or at the key wait, case by case -/

theorem exec_ret_nil {s : State} (hs : s.stack = []) : exec .ret s = .next (s.raise .stackUnderflow .ret) := by
  simp only [exec, execRet, hs]

theorem exec_ret_cons {s : State} {a : Word} {rest : List Word} (hs : s.stack = a :: rest) :
    exec .ret s = .next ((s.setStack rest).setPc a) := by
  simp only [exec, execRet, hs]

theorem exec_ldVxK_idle {s : State} (x : RegIdx) (hw : s.wait = .idle) :
    exec (.ldVxK x) s = .next s.keepWaiting := by
  simp only [exec, execLdVxK, hw]

theorem exec_ldVxK_awaiting {s : State} {snapshot : KeySet} (x : RegIdx) (hw : s.wait = .awaiting snapshot) :
    exec (.ldVxK x) s =
      .next (if s.released snapshot = 0#16 then s.keepWaiting else s.endWait x (s.released snapshot)) := by
  simp only [exec, execLdVxK, hw]

/-! ### The fields that no instruction reads -/

/-- `s` with the sound timer and the host's own fields taken from `h` (R31, R35 to R38). -/
def State.withUnread (s h : State) : State := (s.withHost h).setSt h.st

/-- Both branches of an instruction carry the unread fields along. -/
theorem ite_withUnread {p : Prop} [Decidable p] {a b a' b' h : State} (ha : a' = a.withUnread h)
    (hb : b' = b.withUnread h) : (if p then a' else b') = (if p then a else b).withUnread h := by
  subst ha hb
  exact (apply_ite (State.withUnread · h) p a b).symm

section
variable (s h : State)

theorem State.skipIf_withUnread (c : Bool) : (s.withUnread h).skipIf c = (s.skipIf c).withUnread h := by
  rw [State.skipIf_eq, State.skipIf_eq]
  rfl

theorem State.advanceI_withUnread (last : RegIdx) :
    (s.withUnread h).advanceI last = (s.advanceI last).withUnread h := by
  rw [State.advanceI_eq, State.advanceI_eq]
  rfl

theorem exec_ret_withUnread : exec .ret (s.withUnread h) = mapNext (State.withUnread · h) (exec .ret s) := by
  cases hs : s.stack with
  | nil =>
    rw [exec_ret_nil hs, exec_ret_nil (s := s.withUnread h) hs]
    rfl
  | cons a rest =>
    rw [exec_ret_cons hs, exec_ret_cons (s := s.withUnread h) hs]
    rfl

theorem exec_ldVxK_withUnread (x : RegIdx) :
    exec (.ldVxK x) (s.withUnread h) = mapNext (State.withUnread · h) (exec (.ldVxK x) s) := by
  cases hw : s.wait with
  | idle =>
    rw [exec_ldVxK_idle x hw, exec_ldVxK_idle (s := s.withUnread h) x hw]
    rfl
  | awaiting snapshot =>
    rw [exec_ldVxK_awaiting x hw, exec_ldVxK_awaiting (s := s.withUnread h) x hw]
    exact congrArg Host.Outcome.next (ite_withUnread rfl rfl)

/-- No instruction but `LD ST, Vx` reads or writes the sound timer or a field of the host: replacing them beforehand is
replacing them afterwards. -/
theorem exec_withUnread {i : Instr} (hi : ∀ x, i ≠ .ldStVx x) :
    exec i (s.withUnread h) = mapNext (State.withUnread · h) (exec i s) := by
  cases i
  case ldStVx x => exact absurd rfl (hi x)
  case ret => exact exec_ret_withUnread s h
  case ldVxK x => exact exec_ldVxK_withUnread s h x
  all_goals refine congrArg Host.Outcome.next ?_
  case sys => split <;> rfl
  case seImm | sneImm | seReg | sneReg | skp | sknp => exact s.skipIf_withUnread h _
  case drw | addI | ldF | ldB => exact ite_withUnread rfl rfl
  case stRegs x => exact ite_withUnread ((s.store s.address (s.regsUpTo x)).advanceI_withUnread h x) rfl
  case ldRegs x => exact ite_withUnread ((s.setRegs _).advanceI_withUnread h x) rfl
  -- the other instructions do not branch
  all_goals rfl

end

/-- Only `LD ST, Vx` writes the sound timer (R76): to give a state its own unread fields changes nothing. -/
theorem exec_st {i : Instr} (hi : ∀ x, i ≠ .ldStVx x) {s t : State} (h : exec i s = .next t) : t.st = s.st := by
  have hself : exec i s = mapNext (State.withUnread · s) (exec i s) := exec_withUnread s s hi
  rw [h, mapNext_next] at hself
  calc t.st = (t.withUnread s).st := congrArg State.st (Host.Outcome.next.inj hself)
    _ = s.st := rfl

/-- No instruction reads or writes a field of the host (R4, R266). -/
theorem exec_withHost (i : Instr) (s h : State) :
    exec i (s.withHost h) = mapNext (State.withHost · h) (exec i s) := by
  by_cases hi : ∃ x, i = .ldStVx x
  · obtain ⟨x, rfl⟩ := hi
    rfl
  · obtain ⟨t, ht⟩ := exec_next i s
    have hst : t.st = s.st := exec_st (not_exists.mp hi) ht
    have hcomm : exec i (s.withHost h) = mapNext (State.withUnread · (h.setSt s.st)) (exec i s) :=
      exec_withUnread s (h.setSt s.st) (not_exists.mp hi)
    rw [hcomm, ht, ← hst]
    rfl

/-- The fetch and the failures of the engine read no field of the host either (R4, R266). -/
theorem engineStep_withHost (s h : State) :
    engineStep (s.withHost h) = mapNext (State.withHost · h) (engineStep s) := by
  cases hf : s.fetchWord with
  | none =>
    rw [engineStep_of_none hf, engineStep_of_none (s := s.withHost h) hf]
    rfl
  | some w =>
    cases hd : decodeWord w with
    | error e =>
      rw [engineStep_of_error hf hd, engineStep_of_error (s := s.withHost h) hf hd]
      rfl
    | ok i =>
      rw [engineStep_of_ok hf hd, engineStep_of_ok (s := s.withHost h) hf hd]
      exact exec_withHost i s.advanced h

/-! ### The obligations of the state -/

/-- Settles O55, by the three kinds of step of the worker (`Inv.step`). -/
theorem stepKeepsInv : Obligations.StepKeepsInv := by
  unfold Obligations.StepKeepsInv
  exact fun _ _ hs h => hs.step h

/-- Settles O10: fetch, decoding and instruction all commute with the change (`engineStep_withHost`). The two runs
compared draw the same free values, since the draw counter is the same in both (log entries 5, 6 and 7). -/
theorem engineNeitherReadsNorWritesHostState : Obligations.EngineNeitherReadsNorWritesHostState := by
  unfold Obligations.EngineNeitherReadsNorWritesHostState
  exact engineStep_withHost

/-- Settles O11: `LD ST, Vx` overwrites the sound timer, and every other instruction carries it along
(`exec_withUnread`). The two runs compared draw the same free values, since the draw counter is the same in both (log
entries 5, 6 and 7). -/
theorem noInstructionReadsTheSoundTimer : Obligations.NoInstructionReadsTheSoundTimer := by
  unfold Obligations.NoInstructionReadsTheSoundTimer
  intro i s v
  obtain ⟨t, ht⟩ := exec_next i s
  refine ⟨t, ht, ?_⟩
  by_cases hi : ∃ x, i = .ldStVx x
  · rw [if_pos hi]
    obtain ⟨x, rfl⟩ := hi
    exact ht
  · have hcomm : exec i { s with st := v } = mapNext (State.withUnread · (s.setSt v)) (exec i s) :=
      exec_withUnread s (s.setSt v) (not_exists.mp hi)
    have hhost : t.withHost s = t := exec_host ht
    rw [if_neg hi, hcomm, ht]
    exact congrArg (fun u => Host.Outcome.next (State.setSt u v)) hhost

/-- Settles O54: the fact `inv_reset`, with which the induction over reachable states begins. -/
theorem invHoldsAtReset : Obligations.InvHoldsAtReset := inv_reset

/-! ### Power-on (R41, R290) -/

theorem State.reset_reg (r : RegIdx) : State.reset.reg r = 0#8 := Vector.getElem_replicate r.isLt

/-- At power-on memory lists no cell, so every byte is what a load reset leaves (R291). -/
theorem State.reset_byteAt (a : Nat) : State.reset.byteAt a = resetByte a := rfl

/-- Settles O57: the fields as `State.reset` gives them, the screen blank, and memory the font and zeros. -/
theorem powerOnState : Obligations.PowerOnState := by
  unfold Obligations.PowerOnState
  refine ⟨State.reset_reg, rfl, rfl, rfl, Framebuffer.get_blank, rfl, rfl, rfl, rfl, rfl, rfl, rfl, rfl, rfl, rfl, rfl,
    fun k hk => ?_, fun a ha => ?_⟩
  · rw [State.reset_byteAt]
    exact resetByte_font k hk
  · rw [State.reset_byteAt]
    exact resetByte_zero a ha

end Sys2Proof.Machine
end

section
/-! The memory and the stores (20_memory.md R60 to R76). Which fields an instruction may write is a table
(`fieldsWritten`), to which every instruction is held once (`exec_withFields`); the frames and R76 are read off the
table. Then the bounds of the memory primitives, and what memory holds after a store. -/

namespace Sys2Proof.Machine

/-! ### Frames: taking fields from another state -/

/-- `s` with the fields `changed` taken from `t`. -/
def State.withFields (s t : State) (changed : List Field) : State where
  x := if .x ∈ changed then t.x else s.x
  i := if .i ∈ changed then t.i else s.i
  pc := if .pc ∈ changed then t.pc else s.pc
  mem := if .mem ∈ changed then t.mem else s.mem
  stack := if .stack ∈ changed then t.stack else s.stack
  fb := if .fb ∈ changed then t.fb else s.fb
  dt := if .dt ∈ changed then t.dt else s.dt
  st := if .st ∈ changed then t.st else s.st
  wait := if .wait ∈ changed then t.wait else s.wait
  keys := if .keys ∈ changed then t.keys else s.keys
  q := if .q ∈ changed then t.q else s.q
  run := if .run ∈ changed then t.run else s.run
  budget := if .budget ∈ changed then t.budget else s.budget
  inq := if .inq ∈ changed then t.inq else s.inq
  inqOpen := if .inqOpen ∈ changed then t.inqOpen else s.inqOpen
  outq := if .outq ∈ changed then t.outq else s.outq
  audio := if .audio ∈ changed then t.audio else s.audio
  failure := if .failure ∈ changed then t.failure else s.failure
  draws := if .draws ∈ changed then t.draws else s.draws

section
variable {s t : State} {changed : List Field}

/-- A state that is `s` but for the fields `changed` meets the frame of every other field. -/
theorem SameExcept.of_withFields (h : s.withFields t changed = t) : SameExcept changed s t := by
  intro f hf
  rw [← h]
  cases f with
  | mem => exact fun a => congrArg (Memory.read · a) (if_neg hf)
  | _ => exact if_neg hf

/-- Memory outside `changed` is the same list of cells, not only the same bytes. -/
theorem State.mem_eq_of_withFields (h : s.withFields t changed = t) (hm : .mem ∉ changed) : t.mem = s.mem :=
  calc t.mem = (s.withFields t changed).mem := (congrArg State.mem h).symm
    _ = s.mem := if_neg hm

theorem SameExcept.mono {more : List Field} (h : SameExcept changed s t) (hsub : changed ⊆ more) :
    SameExcept more s t :=
  fun f hf => h f fun hc => hf (hsub hc)

end

/-! ### Which instruction writes which field (R76) -/

/-- The fields that an instruction may write; a `failure` is the report of R250, written when the instruction fails. -/
def fieldsWritten (i : Instr) : List Field :=
  match i with
  | .cls => [.fb]
  | .ret => [.pc, .stack, .failure]
  | .sys _ => [.failure]
  | .call _ => [.pc, .stack]
  | .jp _ | .jpV0 _ => [.pc]
  | .seImm _ _ | .sneImm _ _ | .seReg _ _ | .sneReg _ _ | .skp _ | .sknp _ => [.pc]
  | .ldImm _ _ | .addImm _ _ | .ldReg _ _ | .orReg _ _ | .andReg _ _ | .xorReg _ _ => [.x]
  | .addReg _ _ | .sub _ _ | .shr _ _ | .subn _ _ | .shl _ _ | .ldVxDt _ => [.x]
  | .rnd _ _ => [.x, .draws]
  | .drw _ _ _ => [.x, .fb, .failure]
  | .ldVxK _ => [.x, .pc, .wait, .draws]
  | .ldDtVx _ => [.dt]
  | .ldStVx _ => [.st]
  | .ldI _ | .ldF _ => [.i]
  | .addI _ => [.x, .i]
  | .ldB _ => [.mem, .failure]
  | .stRegs _ => [.i, .mem, .failure]
  | .ldRegs _ => [.x, .i, .failure]

/-- A skip writes `pc` alone (R129). -/
theorem State.withFields_skipIf (s : State) (c : Bool) : s.withFields (s.skipIf c) [.pc] = s.skipIf c := by
  rw [State.skipIf_eq]
  rfl

/-- Every instruction writes at most the fields of its row of the table. -/
theorem exec_withFields {i : Instr} {s t : State} (h : exec i s = .next t) :
    s.withFields t (fieldsWritten i) = t := by
  cases i
  case ldVxK x => obtain rfl | ⟨released, rfl⟩ := exec_ldVxK_cases h <;> rfl
  all_goals obtain rfl := Host.Outcome.next.inj h
  case ret | sys | drw | addI | ldF | ldB => split <;> rfl
  case seImm | sneImm | seReg | sneReg | skp | sknp => exact s.withFields_skipIf _
  case stRegs | ldRegs =>
    split
    · rw [State.advanceI_eq]
      rfl
    · rfl
  -- the other instructions do not branch
  all_goals rfl

/-- The frame of an instruction. -/
theorem exec_sameExcept {i : Instr} {s t : State} (h : exec i s = .next t) : SameExcept (fieldsWritten i) s t :=
  .of_withFields (exec_withFields h)

/-! ### The table read store by store -/

section
variable {i : Instr}

theorem mem_mem_fieldsWritten : .mem ∈ fieldsWritten i ↔ (∃ x, i = .ldB x) ∨ ∃ x, i = .stRegs x := by
  cases i <;> simp [fieldsWritten]

theorem stack_mem_fieldsWritten : .stack ∈ fieldsWritten i ↔ (∃ n, i = .call n) ∨ i = .ret := by
  cases i <;> simp [fieldsWritten]

theorem fb_mem_fieldsWritten : .fb ∈ fieldsWritten i ↔ i = .cls ∨ ∃ x y n, i = .drw x y n := by
  cases i <;> simp [fieldsWritten]

theorem dt_mem_fieldsWritten : .dt ∈ fieldsWritten i ↔ ∃ x, i = .ldDtVx x := by
  cases i <;> simp [fieldsWritten]

theorem i_mem_fieldsWritten : .i ∈ fieldsWritten i ↔
    (∃ n, i = .ldI n) ∨ (∃ x, i = .addI x) ∨ (∃ x, i = .ldF x) ∨ (∃ x, i = .stRegs x) ∨ ∃ x, i = .ldRegs x := by
  cases i <;> simp [fieldsWritten]

/-- The fields that the table never lists: the keys, the quirks and the host's own. -/
theorem fieldsWritten_subset :
    fieldsWritten i ⊆ [.x, .i, .pc, .mem, .stack, .fb, .dt, .st, .wait, .failure, .draws] := by
  cases i <;> simp [fieldsWritten]

end

/-! ### The memory primitives (R62, R63) -/

section
variable {m : Memory} {a : Nat}

theorem inRange_eq_false {n : Nat} (h : 4096 < a + n) (hn : 0 < n) : inRange a n = false := by
  rw [Bool.eq_false_iff]
  exact fun hr => absurd ((inRange_pos hn).mp hr) (by omega)

theorem Memory.read1_eq_none (h : 4096 < a + 1) : m.read1 a = none := by
  simp [Memory.read1, inRange_eq_false h]

theorem Memory.write1_eq_none (h : 4096 < a + 1) (v : Byte) : m.write1 a v = none := by
  simp [Memory.write1, inRange_eq_false h]

theorem Memory.read2_eq_none (h : 4096 < a + 2) : m.read2 a = none := by
  simp [Memory.read2, inRange_eq_false h]

theorem Memory.read1_eq_some (h : a + 1 ≤ 4096) : m.read1 a = some (m.read a) := by
  simp [Memory.read1, (inRange_pos (n := 1) (by decide)).mpr h]

theorem Memory.write1_eq_some (h : a + 1 ≤ 4096) (v : Byte) : m.write1 a v = some (m.write a v) := by
  simp [Memory.write1, (inRange_pos (n := 1) (by decide)).mpr h]

theorem Memory.read2_eq_some (h : a + 2 ≤ 4096) : m.read2 a = some (wordOfBytes (m.read a) (m.read (a + 1))) := by
  simp [Memory.read2, (inRange_pos (n := 2) (by decide)).mpr h]

end

/-- Inside the grid the accessor is the pixel (R70). -/
theorem Framebuffer.get_inside (fb : Framebuffer) {r c : Nat} (hr : r < 32) (hc : c < 64) : fb.get r c = fb[r][c] :=
  dif_pos ⟨hr, hc⟩

/-! ### The storing instructions (R195, R196) -/

section
variable {s : State} {a : Nat} {bs : List Byte}

/-- Byte `k` of a store lies at `a + k` (R68). -/
theorem State.byteAt_store_add (h : s.mem.wf = true) (ha : a + bs.length ≤ 4096) {k : Nat} (hk : k < bs.length) :
    (s.store a bs).byteAt (a + k) = bs.getD k 0#8 := by
  rw [State.byteAt_store h ha, if_pos (by omega), Nat.add_sub_cancel_left]

/-- A store leaves every byte outside its range alone (R63). -/
theorem State.bytesExcept_store (h : s.mem.wf = true) (ha : a + bs.length ≤ 4096) :
    BytesExcept a bs.length s (s.store a bs) := fun b hb => by
  rw [State.byteAt_store h ha, if_neg (by omega)]

@[simp] theorem State.advanceI_pc (last : RegIdx) : (s.advanceI last).pc = s.pc := by
  rw [State.advanceI_eq, State.setI_pc]

@[simp] theorem State.advanceI_byteAt (last : RegIdx) (b : Nat) : (s.advanceI last).byteAt b = s.byteAt b := by
  rw [State.advanceI_eq, State.setI_byteAt]

theorem exec_stRegs_of_inRange (x : RegIdx) (h : s.address + x.val + 1 ≤ 4096) :
    exec (.stRegs x) s = .next ((s.store s.address (s.regsUpTo x)).advanceI x) :=
  congrArg Host.Outcome.next (if_pos ((inRange_pos (Nat.succ_pos _)).mpr h))

theorem exec_ldB_of_inRange (x : RegIdx) (h : s.address + 3 ≤ 4096) :
    exec (.ldB x) s = .next (s.store s.address (decimalDigits (s.reg x))) :=
  congrArg Host.Outcome.next (if_pos ((inRange_pos (n := 3) (by decide)).mpr h))

/-- The fetch reads memory as it is now: after a step that leaves `pc` alone, the word is made of the bytes that memory now
holds there (R65, R74). -/
theorem State.fetchWord_of_pc_eq {t : State} (hpc : t.pc = s.pc) (h : s.pc.toNat ≤ 4094) :
    t.fetchWord = some (wordOfBytes (t.byteAt s.pc.toNat) (t.byteAt (s.pc.toNat + 1))) := by
  rw [← hpc] at h ⊢
  exact State.fetchWord_eq_some h

/-- What memory holds after a decimal store (R195). -/
theorem State.byteAt_store_decimalDigits (h : s.mem.wf = true) (ha : a + 3 ≤ 4096) (v : Byte) :
    ((s.store a (decimalDigits v)).byteAt a).toNat = v.toNat / 100 ∧
    ((s.store a (decimalDigits v)).byteAt (a + 1)).toNat = v.toNat / 10 % 10 ∧
    ((s.store a (decimalDigits v)).byteAt (a + 2)).toNat = v.toNat % 10 := by
  have hdigit (k d : Nat) (hk : k < 3) (hd : (decimalDigits v).getD k 0#8 = BitVec.ofNat 8 d) (hlt : d < 256) :
      ((s.store a (decimalDigits v)).byteAt (a + k)).toNat = d := by
    rw [State.byteAt_store_add (bs := decimalDigits v) h ha hk, hd, BitVec.toNat_ofNat, Nat.mod_eq_of_lt hlt]
  have hv : v.toNat < 256 := v.isLt
  exact ⟨hdigit 0 _ (by decide) rfl (by omega), hdigit 1 _ (by decide) rfl (by omega),
    hdigit 2 _ (by decide) rfl (by omega)⟩

end

/-! ### The obligations of the memory -/

/-- Settles O6: the failed fetch writes the result wire alone, so `pc` still lies beyond memory and the next step is the same
failure. -/
theorem fetchBeyondMemoryFails : Obligations.FetchBeyondMemoryFails := by
  unfold Obligations.FetchBeyondMemoryFails
  intro s hpc
  have hnone : s.fetchWord = none := State.fetchWord_eq_none hpc
  exact ⟨_, engineStep_of_none hnone, rfl, .of_withFields rfl, engineStep_of_none hnone⟩

/-- Settles O12, by the table `fieldsWritten`, to which `exec_withFields` holds every instruction. -/
theorem whichInstructionWritesWhichStore : Obligations.WhichInstructionWritesWhichStore := by
  unfold Obligations.WhichInstructionWritesWhichStore
  intro i s t h
  have hframe : SameExcept (fieldsWritten i) s t := exec_sameExcept h
  refine ⟨fun hb hst => State.mem_eq_of_withFields (exec_withFields h) ?_, fun hcall hret => hframe .stack ?_,
    fun hcls hdrw => hframe .fb ?_, fun hdt => hframe .dt ?_, fun hst => exec_st hst h,
    fun hk => (exec_flow hk h).wait_eq, fun hld hadd hf hst hldr => hframe .i ?_, hframe.mono fieldsWritten_subset⟩
  · simp [mem_mem_fieldsWritten, hb, hst]
  · simp [stack_mem_fieldsWritten, hcall, hret]
  · simp [fb_mem_fieldsWritten, hcls, hdrw]
  · simp [dt_mem_fieldsWritten, hdt]
  · simp [i_mem_fieldsWritten, hld, hadd, hf, hst, hldr]

/-- Settles O58: the bounds of the primitives, and the laws of a write to a canonical memory. -/
theorem memoryPrimitives : Obligations.MemoryPrimitives := by
  unfold Obligations.MemoryPrimitives
  intro m a v hm
  refine ⟨fun h => ⟨Memory.read1_eq_none h, Memory.write1_eq_none h v⟩, Memory.read2_eq_none, fun h => ?_, fun h => ?_,
    fun fb r c h => fb.get_outside (by omega), fun fb r c hr hc => fb.get_inside hr hc⟩
  · exact ⟨Memory.read1_eq_some h, m.write a v, Memory.write1_eq_some h v, Memory.wf_write hm h v,
      Memory.read_write_same hm a v, fun b hb => Memory.read_write_other hm hb v⟩
  · exact ⟨_, Memory.read2_eq_some h, wordOfBytes_toNat ..⟩

/-- Settles O59: neither store writes `pc`, so the next fetch reads the bytes that memory holds after it. -/
theorem storesAreSeenByTheNextFetch : Obligations.StoresAreSeenByTheNextFetch := by
  unfold Obligations.StoresAreSeenByTheNextFetch
  intro x s hm hpc
  constructor
  · intro hr
    have ha : s.address + (s.regsUpTo x).length ≤ 4096 := by rwa [State.regsUpTo_length]
    refine ⟨_, exec_stRegs_of_inRange x hr, State.fetchWord_of_pc_eq (State.advanceI_pc x) hpc, fun k hk => ?_,
      fun b hb => ?_⟩
    · rw [State.advanceI_byteAt, State.byteAt_store_add hm ha (by simpa using Nat.lt_succ_of_le hk)]
      exact s.regsUpTo_getD x k hk
    · rw [State.advanceI_byteAt]
      exact State.bytesExcept_store hm ha b (by rwa [State.regsUpTo_length])
  · intro hr
    obtain ⟨hhundreds, htens, hones⟩ := State.byteAt_store_decimalDigits hm hr (s.reg x)
    exact ⟨_, exec_ldB_of_inRange x hr, State.fetchWord_of_pc_eq (State.store_pc ..) hpc, hhundreds, htens, hones,
      State.bytesExcept_store (bs := decimalDigits (s.reg x)) hm hr⟩

end Sys2Proof.Machine
end

section
/-! The encoding (30_encoding.md R91 to R96). A word is put together again from the fields of its format, so the encoder
reads back what the decoder reads; and the decoder's verdict on a word (`DecodesUnless`) is said once for each family of
sub-opcodes and once for the whole map. -/

namespace Sys2Proof

/-! ### Two bytes and the word they make -/

/-- The decoder on a byte list of two bytes or more is the decoder on their word (R91). -/
theorem decode_cons_cons_eq_ok {hi lo : Byte} {rest rest' : List Byte} {i : Instr} :
    decode (hi :: lo :: rest) = .ok (i, rest') ↔ decodeWord (wordOfBytes hi lo) = .ok i ∧ rest = rest' := by
  cases hd : decodeWord (wordOfBytes hi lo) <;> simp [decode, hd]

open Laws in
/-- The family `RoundTrip` as one statement. -/
theorem decodeWord_encode (i : Instr) : i.wf = true → decodeWord (encode i) = .ok i :=
  match i with
  | .cls => RoundTrip.cls
  | .ret => RoundTrip.ret
  | .sys nnn => RoundTrip.sys nnn
  | .jp nnn => RoundTrip.jp nnn
  | .call nnn => RoundTrip.call nnn
  | .seImm x nn => RoundTrip.seImm x nn
  | .sneImm x nn => RoundTrip.sneImm x nn
  | .seReg x y => RoundTrip.seReg x y
  | .ldImm x nn => RoundTrip.ldImm x nn
  | .addImm x nn => RoundTrip.addImm x nn
  | .ldReg x y => RoundTrip.ldReg x y
  | .orReg x y => RoundTrip.orReg x y
  | .andReg x y => RoundTrip.andReg x y
  | .xorReg x y => RoundTrip.xorReg x y
  | .addReg x y => RoundTrip.addReg x y
  | .sub x y => RoundTrip.sub x y
  | .shr x y => RoundTrip.shr x y
  | .subn x y => RoundTrip.subn x y
  | .shl x y => RoundTrip.shl x y
  | .sneReg x y => RoundTrip.sneReg x y
  | .ldI nnn => RoundTrip.ldI nnn
  | .jpV0 nnn => RoundTrip.jpV0 nnn
  | .rnd x nn => RoundTrip.rnd x nn
  | .drw x y n => RoundTrip.drw x y n
  | .skp x => RoundTrip.skp x
  | .sknp x => RoundTrip.sknp x
  | .ldVxDt x => RoundTrip.ldVxDt x
  | .ldVxK x => RoundTrip.ldVxK x
  | .ldDtVx x => RoundTrip.ldDtVx x
  | .ldStVx x => RoundTrip.ldStVx x
  | .addI x => RoundTrip.addI x
  | .ldF x => RoundTrip.ldF x
  | .ldB x => RoundTrip.ldB x
  | .stRegs x => RoundTrip.stRegs x
  | .ldRegs x => RoundTrip.ldRegs x

/-- A first nibble has four bits (R91): the last arm of the opcode map is dead. -/
theorem Word.fieldOp_lt (w : Word) : w.fieldOp < 16 := by
  unfold Word.fieldOp
  omega

/-! ### A word from its fields (R91, R92) -/

section
variable {w : Word} {op : Nat} (hop : w.fieldOp = op)
include hop

theorem formatNNN_fields : formatNNN op w.fieldNNN = w := by
  subst hop
  apply BitVec.eq_of_toNat_eq
  simp only [formatNNN, Word.fieldOp, Word.fieldNNN, BitVec.toNat_ofNat]
  omega

theorem formatXNN_fields {nn : Byte} (hnn : w.fieldNN.toNat = nn.toNat) : formatXNN op w.fieldX nn = w := by
  subst hop
  apply BitVec.eq_of_toNat_eq
  simp only [formatXNN, Word.fieldOp, Word.fieldX, ← hnn, Word.fieldNN, BitVec.toNat_ofNat]
  omega

theorem formatXYN_fields {n : Fin 16} (hn : w.fieldN.val = n.val) : formatXYN op w.fieldX w.fieldY n = w := by
  subst hop
  apply BitVec.eq_of_toNat_eq
  simp only [formatXYN, Word.fieldOp, Word.fieldX, Word.fieldY, ← hn, Word.fieldN, BitVec.toNat_ofNat]
  omega

end

/-! ### Encoding what was decoded (R94, R95) -/

section
variable {w : Word} {i : Instr}

theorem encode_of_decodeAlu (hop : w.fieldOp = 0x8) (h : decodeAlu w = .ok i) : encode i = w := by
  unfold decodeAlu at h
  split at h <;> cases h
  all_goals exact formatXYN_fields hop ‹_›

theorem encode_of_decodeKey (hop : w.fieldOp = 0xE) (h : decodeKey w = .ok i) : encode i = w := by
  unfold decodeKey at h
  split at h <;> cases h
  all_goals exact formatXNN_fields hop ‹_›

theorem encode_of_decodeMisc (hop : w.fieldOp = 0xF) (h : decodeMisc w = .ok i) : encode i = w := by
  unfold decodeMisc at h
  split at h <;> cases h
  all_goals exact formatXNN_fields hop ‹_›

theorem encode_of_decodeByOp {op : Nat} (hop : w.fieldOp = op) (h : decodeByOp op w = .ok i) : encode i = w := by
  unfold decodeByOp at h
  split at h
  -- the families of sub-opcodes: `8XYn`, `EXnn`, `FXnn`, then `5XY0` and `9XY0`
  case h_9 => exact encode_of_decodeAlu hop h
  case h_15 => exact encode_of_decodeKey hop h
  case h_16 => exact encode_of_decodeMisc hop h
  case h_6 | h_10 =>
    split at h <;> cases h
    exact formatXYN_fields hop ‹_›
  -- the first nibbles with one instruction each, by format
  all_goals cases h
  case h_14 => exact formatXYN_fields hop rfl
  case h_1 | h_2 | h_3 | h_11 | h_12 => exact formatNNN_fields hop
  case h_4 | h_5 | h_7 | h_8 | h_13 => exact formatXNN_fields hop rfl

/-- No bit of a defined word is dropped (R94, R98). -/
theorem encode_of_decodeWord (h : decodeWord w = .ok i) : encode i = w := by
  unfold decodeWord at h
  split at h
  case isTrue hw => cases h; exact hw.symm
  case isFalse =>
    split at h
    case isTrue hw => cases h; exact hw.symm
    case isFalse => exact encode_of_decodeByOp rfl h

/-- An ill-formed instruction is a `SYS` whose word is another instruction's. -/
theorem decodeWord_encode_ne_of_not_wf (h : i.wf = false) : decodeWord (encode i) ≠ .ok i := by
  cases i with
  | sys nnn =>
    have hnnn : nnn = 0x0E0#12 ∨ nnn = 0x0EE#12 := by
      simpa only [Instr.wf, Bool.and_eq_false_iff, bne_eq_false_iff_eq] using h
    obtain rfl | rfl := hnnn <;> decide
  | _ => cases h

theorem wf_of_decodeWord (h : decodeWord w = .ok i) : i.wf = true := by
  obtain rfl := encode_of_decodeWord h
  exact Bool.eq_true_of_not_eq_false fun hwf => decodeWord_encode_ne_of_not_wf hwf h

end

/-! ### Which words are rejected (R96) -/

/-- The decoder's answer `o` for `w` is the rejection of `w` under the condition `p`, and an instruction otherwise. -/
def DecodesUnless (p : Prop) (w : Word) (o : Except DecodeError Instr) : Prop :=
  (p → o = .error (.unknownInstruction w)) ∧ (¬ p → ∃ i, o = .ok i)

namespace DecodesUnless
variable {p q : Prop} {w : Word} {o : Except DecodeError Instr}

theorem ok (hp : ¬ p) (i : Instr) : DecodesUnless p w (.ok i) := ⟨fun h => absurd h hp, fun _ => ⟨i, rfl⟩⟩

theorem error (hp : p) : DecodesUnless p w (.error (.unknownInstruction w)) := ⟨fun _ => rfl, fun h => absurd hp h⟩

theorem congr (h : DecodesUnless q w o) (hpq : p ↔ q) : DecodesUnless p w o := by rwa [DecodesUnless, hpq]

theorem error_iff (h : DecodesUnless p w o) : o = .error (.unknownInstruction w) ↔ p := by
  refine ⟨fun ho => Classical.byContradiction fun hp => ?_, h.1⟩
  obtain ⟨i, hi⟩ := h.2 hp
  cases ho.symm.trans hi

theorem ok_iff (h : DecodesUnless p w o) : (∃ i, o = .ok i) ↔ ¬ p := by
  refine ⟨fun ⟨i, hi⟩ hp => ?_, h.2⟩
  cases hi.symm.trans (h.1 hp)

end DecodesUnless

section
open Machine (UnknownWord)
variable {w : Word}

/-- The family `8XYn` (R94, R96). -/
theorem decodeAlu_verdict :
    DecodesUnless (w.fieldN.val ∈ [0x8, 0x9, 0xA, 0xB, 0xC, 0xD, 0xF]) w (decodeAlu w) := by
  have hlt := w.fieldN.isLt
  unfold decodeAlu
  split
  case h_10 =>
    simp only [imp_false] at *
    exact .error (by simp only [List.mem_cons, List.not_mem_nil]; omega)
  all_goals exact .ok (by simp [*]) _

/-- The family `EXnn` (R94, R96). -/
theorem decodeKey_verdict : DecodesUnless (w.fieldNN.toNat ∉ [0x9E, 0xA1]) w (decodeKey w) := by
  unfold decodeKey
  split
  case h_3 h1 h2 => exact .error (by simpa using ⟨h1, h2⟩)
  all_goals exact .ok (by simp [*]) _

/-- The family `FXnn` (R94, R96). -/
theorem decodeMisc_verdict :
    DecodesUnless (w.fieldNN.toNat ∉ [0x07, 0x0A, 0x15, 0x18, 0x1E, 0x29, 0x33, 0x55, 0x65]) w (decodeMisc w) := by
  unfold decodeMisc
  split
  case h_10 => exact .error (by simp_all)
  all_goals exact .ok (by simp [*]) _

/-- The words of R96 by the fields that the decoder looks at. -/
theorem unknownWord_iff {op : Nat} (hop : w.fieldOp = op) : UnknownWord w ↔
    (op = 0x5 ∧ w.fieldN.val ≠ 0) ∨ (op = 0x8 ∧ w.fieldN.val ∈ [0x8, 0x9, 0xA, 0xB, 0xC, 0xD, 0xF]) ∨
    (op = 0x9 ∧ w.fieldN.val ≠ 0) ∨ (op = 0xE ∧ w.fieldNN.toNat ∉ [0x9E, 0xA1]) ∨
    (op = 0xF ∧ w.fieldNN.toNat ∉ [0x07, 0x0A, 0x15, 0x18, 0x1E, 0x29, 0x33, 0x55, 0x65]) := by
  subst hop
  rfl

/-- Five first nibbles have sub-opcodes; under every other one each word is an instruction (R95, R96). -/
theorem decodeByOp_verdict {op : Nat} (hop : w.fieldOp = op) : DecodesUnless (UnknownWord w) w (decodeByOp op w) := by
  have hunknown := unknownWord_iff hop
  unfold decodeByOp
  split
  -- the families of sub-opcodes: `8XYn`, `EXnn`, `FXnn`, then `5XY0` and `9XY0`
  case h_9 => exact decodeAlu_verdict.congr (by simpa using hunknown)
  case h_15 => exact decodeKey_verdict.congr (by simpa using hunknown)
  case h_16 => exact decodeMisc_verdict.congr (by simpa using hunknown)
  case h_6 | h_10 =>
    split
    case isTrue hn => exact .ok (by simp [hunknown, hn]) _
    case isFalse hn => exact .error (by simp [hunknown, hn])
  case h_17 =>
    have hlt : op < 16 := hop ▸ w.fieldOp_lt
    simp only [imp_false] at *
    omega
  all_goals exact .ok (by simp [hunknown]) _

/-- The two fixed words have first nibble 0 and are instructions; the first nibble decides the others (R94). -/
theorem decodeWord_verdict : DecodesUnless (UnknownWord w) w (decodeWord w) := by
  have hfixed {i : Instr} (hop : w.fieldOp = 0) : DecodesUnless (UnknownWord w) w (.ok i) :=
    .ok (by simp [unknownWord_iff hop]) i
  unfold decodeWord
  split
  case isTrue hw => exact hfixed (by rw [hw]; rfl)
  case isFalse =>
    split
    case isTrue hw => exact hfixed (by rw [hw]; rfl)
    case isFalse => exact decodeByOp_verdict rfl

end

/-! ### The obligations of the encoding -/

/-- Settles O1: the two bytes make the word again, and the word decodes to the instruction (`decodeWord_encode`). The
patterns are the spec's (log entry 1). -/
theorem decodeReadsBackEncode : Obligations.DecodeReadsBackEncode := by
  unfold Obligations.DecodeReadsBackEncode
  intro i rest hwf
  refine decode_cons_cons_eq_ok.mpr ⟨?_, rfl⟩
  rw [wordOfBytes_hiByte_loByte]
  exact decodeWord_encode i hwf

/-- Settles O2: each format is put together again from its fields, and no word decodes to an ill-formed `SYS`. -/
theorem encodeReadsBackDecode : Obligations.EncodeReadsBackDecode := by
  unfold Obligations.EncodeReadsBackDecode
  exact fun _ _ h => ⟨encode_of_decodeWord h, wf_of_decodeWord h⟩

/-- Settles O3, by the decoder's verdict on each first nibble. The strict matching is the spec's decision D28 (log
entry 28). -/
theorem unknownWordsAreExactlyR96 : Obligations.UnknownWordsAreExactlyR96 := by
  unfold Obligations.UnknownWordsAreExactlyR96
  exact fun _ => ⟨decodeWord_verdict.error_iff, decodeWord_verdict.ok_iff⟩

/-- Settles O4: twelve fixed words, by evaluation of the decoder. -/
theorem specWordsDecode : Obligations.SpecWordsDecode := by
  unfold Obligations.SpecWordsDecode
  and_intros <;> rfl

end Sys2Proof
end

section
/-! One instruction through the engine and the worker (30_encoding.md R90, 47_host_messages.md R214, R222): the steps of
the machine that execute an instruction, as that instruction's `exec` followed by the worker's accounting. -/

namespace Sys2Proof.Machine

theorem mapNext_mapNext (f g : State → State) (o : Host.Outcome State Fault Refusal) :
    mapNext f (mapNext g o) = mapNext (fun u => f (g u)) o := by
  cases o <;> rfl

/-- The fetch and the decoder, from the two bytes at `pc` (R65, R90). -/
theorem engineStep_of_decode {s : State} {i : Instr} (hpc : s.pc.toNat ≤ 4094)
    (hd : decode [s.byteAt s.pc.toNat, s.byteAt (s.pc.toNat + 1)] = .ok (i, [])) :
    engineStep s = exec i s.advanced :=
  engineStep_of_ok (State.fetchWord_eq_some hpc) (decode_cons_cons_eq_ok.mp hd).1

/-- One iteration of the drain loop and, if nothing more is owed, the end of the message (R222, R224). -/
theorem step_eq_of_draining {s : State} (h : s.draining = true) :
    step s = mapNext (fun u => u.accountDrained.finishMessage) (engineStep s) := by
  rw [step_of_draining h, mapNext_mapNext]

/-- A `Step` command is one step of the engine, reported, and the end of the message (R214, R224). -/
theorem step_eq_of_stepCommand {s : State} {rest : List Message} (h : Delivered (.command .step) rest s) :
    step s = mapNext (fun u => u.reportStep.finishMessage) (engineStep { s with inq := rest }) := by
  obtain ⟨hbudget, hopen, hinq⟩ := h
  rw [step_of_message (State.not_draining_of_budget hbudget) hopen hinq]
  exact mapNext_mapNext ..

/-- Settles O5: the engine's step is `exec` of the decoded instruction, for the state of the drain and for the state from
which the command was taken alike. The granularity of the drain is the model's choice (log entry 9). -/
theorem stepExecutesTheDecodedInstruction : Obligations.StepExecutesTheDecodedInstruction := by
  unfold Obligations.StepExecutesTheDecodedInstruction
  intro s i hpc hd
  have hengine : engineStep s = exec i s.advanced := engineStep_of_decode hpc hd
  refine ⟨hengine, fun hdrain => ?_, fun rest hnext => ?_⟩
  · rw [step_eq_of_draining hdrain, hengine]
    rfl
  · rw [step_eq_of_stepCommand hnext, engineStep_of_decode (s := { s with inq := rest }) hpc hd]
    rfl

end Sys2Proof.Machine
end

section
/-! Control flow (40_control_flow.md R120 to R130). The word of an instruction decodes to it (`Decodes.of_encode`); the
frames are rows of the table `fieldsWritten`; every skip is `exec_skip`; and the self-jump is a fixed point of one step
of the engine, so of any number of them (`engineRun_of_fixedPoint`). -/

namespace Sys2Proof.Machine

/-! ### Words that decode (R94, R95) -/

/-- The word that the encoder writes for `i`, in whatever arithmetic its number is spelled, decodes to `i`. -/
theorem Decodes.of_encode {i : Instr} {m n : Nat} (henc : encode i = BitVec.ofNat 16 m) (hn : n = m)
    (hwf : i.wf = true := by rfl) : Decodes n i := by
  rw [Decodes, hn, ← henc]
  exact decodeWord_encode i hwf

theorem encode_sys (nnn : Addr12) : encode (.sys nnn) = BitVec.ofNat 16 nnn.toNat := by
  simp [encode, formatNNN]

theorem decodes_jp (nnn : Addr12) : Decodes (0x1000 + nnn.toNat) (.jp nnn) := .of_encode rfl (by omega)

/-! ### Failing instructions and skips (R129, R257) -/

/-- A raised failure is reported, and nothing else changes (R257). -/
theorem SameExcept.raise (s : State) (kind : FailureKind) (i : Instr) : SameExcept [.failure] s (s.raise kind i) :=
  .of_withFields rfl

/-- An instruction that skips when `p` holds moves `pc` exactly then, and nothing else (R129). -/
theorem exec_skip {i : Instr} {s : State} {c : Bool} {p : Prop} [Decidable p] (h : exec i s = .next (s.skipIf c))
    (hc : c = true ↔ p) :
    ∃ t, exec i s = .next t ∧ SameExcept [.pc] s t ∧ t.pc = if p then s.pc + 2#16 else s.pc := by
  refine ⟨_, h, .of_withFields (s.withFields_skipIf c), ?_⟩
  rw [State.skipIf_eq, State.setPc_pc]
  exact if_congr hc rfl rfl

/-! ### `SYS` by the OPEN parameter (R122, D2) -/

theorem exec_sys_noOp (h : Config.sysBehaviour = .noOp) (nnn : Addr12) (s : State) :
    exec (.sys nnn) s = .next s := by
  simp only [exec, execSys, h]

theorem exec_sys_unknownInstruction (h : Config.sysBehaviour = .unknownInstruction) (nnn : Addr12) (s : State) :
    exec (.sys nnn) s = .next (s.raise .unknownInstruction (.sys nnn)) := by
  simp only [exec, execSys, h]

/-! ### The self-jump (R123) -/

/-- A word below 4096 is a 12-bit address. -/
theorem Addr12.exists_zext_eq {w : Word} (h : w.toNat < 4096) : ∃ nnn : Addr12, nnn.zext = w := by
  refine ⟨BitVec.ofNat 12 w.toNat, BitVec.eq_of_toNat_eq ?_⟩
  rw [Addr12.zext_toNat, BitVec.toNat_ofNat, Nat.mod_eq_of_lt h]

/-- The advance is undone by a jump back to the instruction. -/
theorem State.setPc_advanced {s : State} (h : s.failure = none) : s.advanced.setPc s.pc = s :=
  calc s.advanced.setPc s.pc = s.setFailure none := rfl
    _ = s.setFailure s.failure := by rw [h]
    _ = s := rfl

/-- The self-jump leaves the whole state as it was. -/
theorem engineStep_selfJump {s : State} (hf : s.failure = none)
    (hw : s.fetchWord = some (BitVec.ofNat 16 (0x1000 + s.pc.toNat))) : engineStep s = .next s := by
  have hpc : s.pc.toNat ≤ 4094 := State.pc_le_of_fetchWord hw
  obtain ⟨nnn, hnnn⟩ := Addr12.exists_zext_eq (w := s.pc) (by omega)
  rw [← hnnn, Addr12.zext_toNat] at hw
  calc engineStep s = exec (.jp nnn) s.advanced := engineStep_of_ok hw (decodes_jp nnn)
    _ = .next (s.advanced.setPc nnn.zext) := rfl
    _ = .next s := by rw [hnnn, State.setPc_advanced hf]

theorem engineRun_succ {s t : State} (h : engineStep s = .next t) (hf : t.failure = none) (n : Nat) :
    engineRun (n + 1) s = engineRun n t := by
  simp [engineRun, h, hf]

theorem engineRun_of_fixedPoint {s : State} (hf : s.failure = none) (h : engineStep s = .next s) (n : Nat) :
    engineRun n s = some s := by
  induction n with
  | zero => rfl
  | succ n ih => rw [engineRun_succ h hf, ih]

/-! ### The obligations of control flow -/

/-- Settles O16: the self-jump jumps back over its own advance, and a fixed point of one step is one of any number. -/
theorem jpJumpsAndSelfJumpIsAFixedPoint : Obligations.JpJumpsAndSelfJumpIsAFixedPoint := by
  unfold Obligations.JpJumpsAndSelfJumpIsAFixedPoint
  refine ⟨decodes_jp, fun nnn s => ⟨_, rfl, Addr12.zext_toNat nnn, exec_sameExcept (i := .jp nnn) rfl⟩,
    fun s hf hw => ?_, fun s => ⟨_, rfl, State.fetchWord_eq_none ?_⟩⟩
  · have hstep : engineStep s = .next s := engineStep_selfJump hf hw
    exact ⟨hstep, engineRun_of_fixedPoint hf hstep⟩
  · rw [State.setPc_pc, Addr12.zext_toNat]
    decide

/-- Settles O13: the screen becomes the blank one; the frame is the row of `CLS` in the table. -/
theorem clsTurnsEveryPixelOff : Obligations.ClsTurnsEveryPixelOff := by
  unfold Obligations.ClsTurnsEveryPixelOff
  exact ⟨.of_encode (i := .cls) (m := 0x00E0) rfl rfl, fun s => ⟨_, rfl, fun r c _ _ => Framebuffer.get_blank r c,
    exec_sameExcept (i := .cls) rfl⟩⟩

/-- Settles O14, by the two cases of the stack. -/
theorem retPopsOrUnderflows : Obligations.RetPopsOrUnderflows := by
  unfold Obligations.RetPopsOrUnderflows
  refine ⟨.of_encode (i := .ret) (m := 0x00EE) rfl rfl, fun s a rest hs => ?_, fun s hs => ?_⟩
  · exact ⟨_, exec_ret_cons hs, rfl, rfl, .of_withFields rfl,
      State.fetchWord_eq_none (s := (s.setStack rest).setPc a)⟩
  · exact ⟨_, exec_ret_nil hs, rfl, .raise s .stackUnderflow .ret⟩

/-- Settles O15, for both values of the OPEN parameter (decision D2, log entry 4). -/
theorem sysFollowsTheOpenParameter : Obligations.SysFollowsTheOpenParameter := by
  unfold Obligations.SysFollowsTheOpenParameter
  refine ⟨fun nnn hcls hret => .of_encode (encode_sys nnn) rfl (by simp [Instr.wf, hcls, hret]), fun nnn s => ?_⟩
  cases hb : Config.sysBehaviour with
  | noOp => exact ⟨s, exec_sys_noOp hb nnn s, rfl⟩
  | unknownInstruction =>
    refine ⟨_, exec_sys_unknownInstruction hb nnn s, .raise s .unknownInstruction (.sys nnn), ?_⟩
    rw [State.raise_failure, encode_sys]

/-- Settles O17. What is pushed is general knowledge GK9 and the unbounded stack decision D6 (log entries 1 and 12). -/
theorem callPushesTheAdvancedCounter : Obligations.CallPushesTheAdvancedCounter := by
  unfold Obligations.CallPushesTheAdvancedCounter
  exact fun nnn => ⟨.of_encode rfl (by omega), fun s =>
    ⟨_, rfl, Addr12.zext_toNat nnn, rfl, exec_sameExcept (i := .call nnn) rfl⟩⟩

/-- Settles O18, by `exec_skip`. -/
theorem skipOnImmediate : Obligations.SkipOnImmediate := by
  unfold Obligations.SkipOnImmediate
  exact fun x nn => ⟨⟨.of_encode rfl (by omega), fun s => exec_skip rfl beq_iff_eq⟩,
    ⟨.of_encode rfl (by omega), fun s => exec_skip rfl bne_iff_ne⟩⟩

/-- Settles O19, by `exec_skip`. -/
theorem skipOnRegister : Obligations.SkipOnRegister := by
  unfold Obligations.SkipOnRegister
  exact fun x y => ⟨⟨.of_encode rfl (by omega), fun s => exec_skip rfl beq_iff_eq⟩,
    ⟨.of_encode rfl (by omega), fun s => exec_skip rfl bne_iff_ne⟩⟩

end Sys2Proof.Machine
end

section
/-! Loads and arithmetic on registers (41_load_alu.md R140 to R152). An instruction either replaces one register
(`exec_setReg`) or writes a result and then its flag (`exec_setResultAndFlag`), with the frame proved once for each shape;
what is left of an obligation is the value written, and each flag as a number. -/

namespace Sys2Proof.Machine

/-! ### The two shapes of register write (R12) -/

section
variable {i : Instr} {s : State} {x : RegIdx} {v : Byte}

/-- An instruction that replaces one register leaves every other register and field alone; unless it is the one, `VF` is
among them (D33). -/
theorem exec_setReg (h : exec i s = .next (s.setReg x v)) :
    ∃ t, exec i s = .next t ∧ t.reg x = v ∧ RegsExcept [x] s t ∧ SameExcept [.x] s t := by
  refine ⟨_, h, ?_, fun r hr => ?_, .of_withFields rfl⟩
  · rw [State.reg_setReg, if_pos rfl]
  · rw [State.reg_setReg, if_neg (List.ne_of_not_mem_cons hr)]

/-- The same, with the value given bit by bit. -/
theorem exec_setReg_bits {bit : Nat → Bool} (h : exec i s = .next (s.setReg x v)) (hv : ∀ k, v.getLsbD k = bit k) :
    ∃ t, exec i s = .next t ∧ RegsExcept [x] s t ∧ SameExcept [.x] s t ∧ ∀ k < 8, (t.reg x).getLsbD k = bit k := by
  obtain ⟨t, ht, hreg, hregs, hfields⟩ := exec_setReg h
  exact ⟨t, ht, hregs, hfields, fun k _ => by rw [hreg, hv]⟩

/-- An instruction that writes a result and then its flag leaves the flag in `VF`, also when `VF` is the destination, and
every other register and field alone (R12, R22). -/
theorem exec_setResultAndFlag {b : Bool} {result flag : Nat} (h : exec i s = .next (s.setResultAndFlag x v b))
    (hv : v.toNat = result) (hb : b.toNat = flag) :
    ∃ t, exec i s = .next t ∧ (x ≠ 15 → (t.reg x).toNat = result) ∧ (t.reg 15).toNat = flag ∧
      RegsExcept [x, 15] s t ∧ SameExcept [.x] s t := by
  refine ⟨_, h, fun hx => ?_, ?_, fun r hr => ?_, .of_withFields rfl⟩
  · rw [State.reg_setResultAndFlag, vf, if_neg hx, if_pos rfl, hv]
  · rw [State.reg_setResultAndFlag, vf, if_pos rfl, flagByte_toNat, hb]
  · obtain ⟨hx, hvf⟩ : r ≠ x ∧ r ≠ 15 := by simpa using hr
    rw [State.reg_setResultAndFlag, vf, if_neg hvf, if_neg hx]

end

/-! ### Results and flags as numbers (R151, R152) -/

section
variable (a b : Byte)

theorem carryOut_toNat : (carryOut a b).toNat = if 255 < a.toNat + b.toNat then 1 else 0 := Bool.cond_decide _ 1 0

theorem noBorrow_toNat : (noBorrow a b).toNat = if b.toNat ≤ a.toNat then 1 else 0 := Bool.cond_decide _ 1 0

theorem shiftedOutRight_toNat : (shiftedOutRight a).toNat = a.toNat % 2 := by
  rw [shiftedOutRight, BitVec.getLsbD, Nat.toNat_testBit, Nat.pow_zero, Nat.div_one]

theorem shiftedOutLeft_toNat : (shiftedOutLeft a).toNat = a.toNat / 128 := by
  have ha : a.toNat < 256 := a.isLt
  rw [shiftedOutLeft, BitVec.getLsbD, Nat.toNat_testBit]
  omega

theorem Byte.sub_toNat : (a - b).toNat = (a.toNat + 256 - b.toNat) % 256 := by
  have hb : b.toNat < 256 := b.isLt
  rw [BitVec.toNat_sub]
  omega

theorem Byte.shiftRight_one_toNat : (a >>> 1).toNat = a.toNat / 2 := by
  rw [BitVec.toNat_ushiftRight, Nat.shiftRight_one]

theorem Byte.shiftLeft_one_toNat : (a <<< 1).toNat = 2 * a.toNat % 256 := by
  rw [BitVec.toNat_shiftLeft, Nat.shiftLeft_eq, Nat.pow_one, Nat.mul_comm]

end

/-! ### The obligations of loads and arithmetic -/

/-- Settles O20, by `exec_setReg`. The meanings are general knowledge GK4, the missing flag decision D33 (log entries 1 and
20). -/
theorem loadsAndAddImmediate : Obligations.LoadsAndAddImmediate := by
  unfold Obligations.LoadsAndAddImmediate
  refine ⟨fun x nn => ⟨⟨.of_encode rfl (by omega), fun s => exec_setReg rfl⟩, .of_encode rfl (by omega), fun s => ?_⟩,
    fun x y => ⟨.of_encode rfl (by omega), fun s => exec_setReg rfl⟩⟩
  obtain ⟨t, ht, hreg, hframe⟩ := exec_setReg (i := .addImm x nn) (s := s) rfl
  exact ⟨t, ht, by rw [hreg, BitVec.toNat_add], hframe⟩

/-- Settles O21, by `exec_setReg_bits` for each operation. That no flag is written is decision D33 (log entry 20). -/
theorem logicIsBitwiseWithoutFlag : Obligations.LogicIsBitwiseWithoutFlag := by
  unfold Obligations.LogicIsBitwiseWithoutFlag
  exact fun x y =>
    ⟨⟨.of_encode rfl (by omega), fun s => exec_setReg_bits rfl fun _ => BitVec.getLsbD_or⟩,
      ⟨.of_encode rfl (by omega), fun s => exec_setReg_bits rfl fun _ => BitVec.getLsbD_and⟩,
      .of_encode rfl (by omega), fun s => exec_setReg_bits rfl fun _ => BitVec.getLsbD_xor⟩

/-- Settles O22, by `exec_setResultAndFlag`. -/
theorem addSetsCarry : Obligations.AddSetsCarry := by
  unfold Obligations.AddSetsCarry
  exact fun x y => ⟨.of_encode rfl (by omega), fun s =>
    exec_setResultAndFlag rfl (BitVec.toNat_add ..) (carryOut_toNat ..)⟩

/-- Settles O23, by `exec_setResultAndFlag` for both operand orders, whose opcodes are general knowledge GK6 (log
entry 1). -/
theorem subtractSetsNotBorrow : Obligations.SubtractSetsNotBorrow := by
  unfold Obligations.SubtractSetsNotBorrow
  exact fun x y =>
    ⟨⟨.of_encode rfl (by omega), fun s => exec_setResultAndFlag rfl (Byte.sub_toNat ..) (noBorrow_toNat ..)⟩,
      .of_encode rfl (by omega), fun s => exec_setResultAndFlag rfl (Byte.sub_toNat ..) (noBorrow_toNat ..)⟩

/-- Settles O24, by `exec_setResultAndFlag` at the source that the quirk selects (`State.shiftSource`). Which
opcode has which direction is general knowledge GK6 (log entry 1). -/
theorem shiftsFollowTheQuirk : Obligations.ShiftsFollowTheQuirk := by
  unfold Obligations.ShiftsFollowTheQuirk
  exact fun x y =>
    ⟨⟨.of_encode rfl (by omega), fun s =>
        exec_setResultAndFlag rfl (Byte.shiftRight_one_toNat (s.shiftSource x y)) (shiftedOutRight_toNat _)⟩,
      .of_encode rfl (by omega), fun s =>
        exec_setResultAndFlag rfl (Byte.shiftLeft_one_toNat (s.shiftSource x y)) (shiftedOutLeft_toNat _)⟩

end Sys2Proof.Machine
end

section
/-! The index load, the indirect jump and the random byte (42_index_jump_random.md R160 to R163). The frames are rows of
the table `fieldsWritten`; the jump's target is the sum of `State.jumpTarget_toNat`, so what is said here is which register
it adds; and the mask bounds the random byte, whatever was drawn. -/

namespace Sys2Proof.Machine

/-! ### The register that the indirect jump adds (R161) -/

section
variable {s : State}

theorem State.jumpOffset_default (h : s.q.jump = false) (nnn : Addr12) : s.jumpOffset nnn = s.reg 0 := by
  rw [State.jumpOffset, h, if_neg Bool.false_ne_true]

theorem State.jumpOffset_quirk (h : s.q.jump = true) (nnn : Addr12) : s.jumpOffset nnn = s.reg (topNibble nnn) :=
  if_pos h

end

theorem topNibble_eq {nnn : Addr12} {x : RegIdx} (hx : x.val = nnn.toNat / 256) : topNibble nnn = x :=
  Fin.ext <| calc (topNibble nnn).val = nnn.toNat / 256 % 16 := rfl
    _ = x.val := by rw [← hx, Nat.mod_eq_of_lt x.isLt]

/-! ### The mask (R163) -/

/-- No bit outside the mask survives it. -/
theorem Byte.and_mask_and_not (b mask : Byte) : b &&& mask &&& ~~~mask = 0#8 := by
  rw [BitVec.and_assoc, BitVec.and_not_self]
  exact BitVec.and_zero

/-! ### The obligations of this file of the spec -/

/-- Settles O26: the target is `State.jumpTarget`, the register added is read off the quirk, and a counter beyond 4094
fetches nothing (R65). -/
theorem indirectJumpAddsTheRegister : Obligations.IndirectJumpAddsTheRegister := by
  unfold Obligations.IndirectJumpAddsTheRegister
  refine fun nnn => ⟨.of_encode rfl (by omega), fun s => ⟨_, rfl, exec_sameExcept (i := .jpV0 nnn) rfl,
    s.jumpTarget_toNat_le nnn, fun hq => ?_, fun x hq hx => ?_, State.fetchWord_eq_none⟩⟩
  · rw [State.setPc_pc, State.jumpTarget_toNat, State.jumpOffset_default hq]
  · rw [State.setPc_pc, State.jumpTarget_toNat, State.jumpOffset_quirk hq, topNibble_eq hx]

/-- Settles O25. The meaning is general knowledge GK4 (log entry 1). -/
theorem loadIndex : Obligations.LoadIndex := by
  unfold Obligations.LoadIndex
  exact fun nnn => ⟨.of_encode rfl (by omega), fun s =>
    ⟨_, rfl, Addr12.zext_toNat nnn, exec_sameExcept (i := .ldI nnn) rfl⟩⟩

/-- Settles O27, for every value of the free byte (decision D30, log entries 5 and 7). -/
theorem randomByteUnderTheMask : Obligations.RandomByteUnderTheMask := by
  unfold Obligations.RandomByteUnderTheMask
  refine fun x nn => ⟨.of_encode rfl (by omega), fun s => ⟨_, rfl, ?_, ?_, rfl, fun r hr => ?_,
    exec_sameExcept (i := .rnd x nn) rfl⟩⟩
  · rw [State.nextDraw_reg, State.reg_setReg, if_pos rfl, State.drawnByte]
  · rw [State.nextDraw_reg, State.reg_setReg, if_pos rfl, Byte.and_mask_and_not]
  · rw [State.nextDraw_reg, State.reg_setReg, if_neg (List.ne_of_not_mem_cons hr)]

end Sys2Proof.Machine
end

section
/-! The sprite draw (43_draw.md R170 to R174). In range, `DRW` answers `State.afterDrw`, whose screen is the
exclusive-or with `spriteOn` (`State.get_afterDrw`) and whose flag is a collision (`State.reg_vf_afterDrw`). A second draw
from the same start meets the same sprite (`spriteOn_congr`), so it undoes the first pixel by pixel. -/

namespace Sys2Proof.Machine

/-! ### `DRW` in range, out of range and empty (R170, D16, D17) -/

/-- The state after a draw that passes its range check: the screen drawn on, `VF` the collision flag. -/
def State.afterDrw (s : State) (x y : RegIdx) (n : Fin 16) : State :=
  (s.setFb (s.drawn x y n).fb).setFlag (s.drawn x y n).hit

section
variable {s : State} {n : Fin 16} (x y : RegIdx)

theorem exec_drw_of_inRange (h : n.val = 0 ∨ s.i.toNat + n.val ≤ 4096) :
    exec (.drw x y n) s = .next (s.afterDrw x y n) :=
  congrArg Host.Outcome.next (if_pos ((inRange_iff s.address n.val).mpr h))

theorem exec_drw_of_outOfRange (hn : 0 < n.val) (h : 4096 < s.i.toNat + n.val) :
    exec (.drw x y n) s = .next (s.raise .memoryOutOfBounds (.drw x y n)) :=
  congrArg Host.Outcome.next (if_neg (ne_true_of_eq_false (inRange_eq_false (a := s.address) h hn)))

theorem encode_drw : encode (.drw x y n) = BitVec.ofNat 16 (0xD000 + 256 * x.val + 16 * y.val + n.val) := by
  rw [encode, formatXYN, Nat.mul_comm x.val, Nat.mul_comm y.val]

/-- An empty sprite reads no byte and leaves the screen alone (D17). -/
theorem exec_drw_zero : exec (.drw x y 0) s = .next (s.setFlag false) := rfl

end

/-! ### What a draw leaves (R171 to R173) -/

section
variable (s : State) (x y : RegIdx) (n : Fin 16)

theorem State.get_afterDrw {r c : Nat} (hr : r < 32) (hc : c < 64) :
    (s.afterDrw x y n).fb.get r c = (s.fb.get r c ^^ spriteOn s x y n r c) :=
  s.get_drawn x y n hr hc

theorem State.reg_vf_afterDrw : (s.afterDrw x y n).reg 15 = flagByte (s.drawn x y n).hit := by
  rw [State.afterDrw, State.reg_setFlag, vf, if_pos rfl]

/-- A draw collides exactly when some pixel goes from on to off (R173). -/
theorem State.hit_drawn_iff_turned_off : (s.drawn x y n).hit = true ↔
    ∃ r c, r < 32 ∧ c < 64 ∧ s.fb.get r c = true ∧ (s.afterDrw x y n).fb.get r c = false := by
  rw [State.hit_drawn]
  refine exists₂_congr fun r c => and_congr_right fun hr => and_congr_right fun hc => ?_
  rw [State.get_afterDrw s x y n hr hc, and_comm]
  refine and_congr_right fun hon => ?_
  rw [hon, Bool.true_xor, Bool.not_eq_false']

theorem State.regsExcept_afterDrw : RegsExcept [15] s (s.afterDrw x y n) := fun r hr => by
  rw [State.afterDrw, State.reg_setFlag, vf, if_neg (List.ne_of_not_mem_cons hr), State.setFb_reg]

theorem State.sameExcept_afterDrw : SameExcept [.x, .fb] s (s.afterDrw x y n) := .of_withFields rfl

end

theorem flagByte_eq_one_iff {b : Bool} : flagByte b = 1#8 ↔ b = true := by
  cases b <;> decide

/-! ### The same sprite again (R174) -/

/-- Two screens with the same pixels inside the grid are the same. -/
theorem Framebuffer.ext_of_get_inside {f g : Framebuffer}
    (h : ∀ r c : Nat, r < 32 → c < 64 → f.get r c = g.get r c) : f = g :=
  Framebuffer.ext_of_get fun r c => by
    by_cases hin : r < 32 ∧ c < 64
    · exact h r c hin.1 hin.2
    · rw [f.get_outside hin, g.get_outside hin]

section
variable {s t : State} {x y : RegIdx}

/-- A sprite is determined by `I`, the memory and the two start coordinates. -/
theorem spriteOn_congr (hi : t.i = s.i) (hmem : ∀ a, t.byteAt a = s.byteAt a)
    (hx : (t.reg x).toNat % 64 = (s.reg x).toNat % 64) (hy : (t.reg y).toNat % 32 = (s.reg y).toNat % 32)
    (n : Fin 16) (r c : Nat) : spriteOn t x y n r c = spriteOn s x y n r c := by
  simp only [spriteOn, hi, hmem, hx, hy]

variable {n : Fin 16} (hx : ((s.afterDrw x y n).reg x).toNat % 64 = (s.reg x).toNat % 64)
  (hy : ((s.afterDrw x y n).reg y).toNat % 32 = (s.reg y).toNat % 32)
include hx hy

theorem spriteOn_afterDrw (r c : Nat) : spriteOn (s.afterDrw x y n) x y n r c = spriteOn s x y n r c :=
  spriteOn_congr (s := s) (t := s.afterDrw x y n) rfl (fun _ => rfl) hx hy n r c

/-- The exclusive-or with one sprite twice is the identity. -/
theorem State.fb_afterDrw_afterDrw : ((s.afterDrw x y n).afterDrw x y n).fb = s.fb :=
  Framebuffer.ext_of_get_inside fun r c hr hc => by
    rw [State.get_afterDrw _ x y n hr hc, State.get_afterDrw s x y n hr hc, spriteOn_afterDrw hx hy, Bool.xor_assoc,
      Bool.xor_self, Bool.xor_false]

/-- The second draw turns off just what the first turned on. -/
theorem State.hit_drawn_afterDrw : ((s.afterDrw x y n).drawn x y n).hit = true ↔
    ∃ r c, r < 32 ∧ c < 64 ∧ spriteOn s x y n r c = true ∧ s.fb.get r c = false := by
  rw [State.hit_drawn]
  refine exists₂_congr fun r c => and_congr_right fun hr => and_congr_right fun hc => ?_
  rw [spriteOn_afterDrw hx hy, State.get_afterDrw s x y n hr hc]
  refine and_congr_right fun hset => ?_
  rw [hset, Bool.xor_true, Bool.not_eq_true']

end

/-! ### The obligations of the sprite draw -/

/-- Settles O28, by the screen and the flag of `State.afterDrw`. Decisions D14 and D17 (log entries 13 and 25). -/
theorem drawInvertsPixelsAndReportsCollision : Obligations.DrawInvertsPixelsAndReportsCollision := by
  unfold Obligations.DrawInvertsPixelsAndReportsCollision
  intro x y n s hrange
  have hhit := s.hit_drawn_iff_turned_off x y n
  refine ⟨_, exec_drw_of_inRange x y hrange, fun r c => s.get_afterDrw x y n, fun hoff => ?_, fun hkept => ?_,
    s.regsExcept_afterDrw x y n, s.sameExcept_afterDrw x y n⟩
  · rw [State.reg_vf_afterDrw, hhit.mpr hoff]
    rfl
  · rw [State.reg_vf_afterDrw, Bool.eq_false_of_not_eq_true (mt hhit.mp hkept)]
    rfl

/-- Settles O29: an empty sprite writes the clear flag alone, and a sprite out of memory raises. Decisions D16 and D17
(log entry 13). -/
theorem drawEncodingEmptyAndOutOfRange : Obligations.DrawEncodingEmptyAndOutOfRange := by
  unfold Obligations.DrawEncodingEmptyAndOutOfRange
  exact fun x y => ⟨fun n => .of_encode (encode_drw x y) rfl, fun s => exec_setReg (exec_drw_zero x y),
    fun n s hn hout => ⟨_, exec_drw_of_outOfRange x y hn hout, by rw [State.raise_failure, encode_drw],
      .raise s .memoryOutOfBounds (.drw x y n)⟩⟩

/-- Settles O30: the second draw meets the sprite of the first. The exact flag is what R173 asks for, where the rule's
derived sentence says more (log entry 26). -/
theorem drawingTwiceRestoresTheScreen : Obligations.DrawingTwiceRestoresTheScreen := by
  unfold Obligations.DrawingTwiceRestoresTheScreen
  intro x y n s t u hrange ht hx hy hu
  obtain rfl : s.afterDrw x y n = t := Host.Outcome.next.inj ((exec_drw_of_inRange x y (.inr hrange)).symm.trans ht)
  obtain rfl : (s.afterDrw x y n).afterDrw x y n = u :=
    Host.Outcome.next.inj ((exec_drw_of_inRange (s := s.afterDrw x y n) x y (.inr hrange)).symm.trans hu)
  refine ⟨State.fb_afterDrw_afterDrw hx hy, ?_⟩
  rw [State.reg_vf_afterDrw, flagByte_eq_one_iff, State.hit_drawn_afterDrw hx hy]

end Sys2Proof.Machine
end

section
/-! The keypad (44_keypad.md R180 to R184). A key is pressed by the whole byte (`State.pressed_iff`); a poll of `LD Vx, K`
keeps waiting unless a key of the snapshot was released (`exec_ldVxK_of_held`, `exec_ldVxK_of_released`), and outside such
a poll only an accepted load moves the blocking state (`engineStep_wait`, `handle_wait`). -/

namespace Sys2Proof.Machine

/-- A word whose low byte is part of the opcode, as in `EXnn` and `FXnn`, decodes to the instruction that is encoded with
that byte (R91, R95). -/
theorem Decodes.of_lowByte {i : Instr} {op low : Nat} {x : RegIdx} (henc : encode i = formatXNN op x (BitVec.ofNat 8 low))
    (hlow : low < 256 := by decide) (hwf : i.wf = true := by rfl) : Decodes (op * 4096 + low + 256 * x.val) i := by
  refine .of_encode henc ?_ hwf
  rw [BitVec.toNat_ofNat, Nat.mod_eq_of_lt hlow]
  omega

/-! ### Pressed and released keys (R182, R183) -/

section
variable (s : State)

theorem State.pressed_iff (v : Byte) : s.pressed v = true ↔ v.toNat ≤ 15 ∧ s.keys.getLsbD v.toNat = true := by
  rw [State.pressed, Bool.and_eq_true, decide_eq_true_eq]

variable {snapshot : KeySet}

theorem State.getLsbD_released_iff (k : RegIdx) : (s.released snapshot).getLsbD k.val = true ↔
    snapshot.getLsbD k.val = true ∧ s.keys.getLsbD k.val = false := by
  rw [State.mem_released s snapshot k.val k.isLt, Bool.and_eq_true, Bool.not_eq_true']

theorem State.released_ne_zero (h : ∃ k : RegIdx, snapshot.getLsbD k.val = true ∧ s.keys.getLsbD k.val = false) :
    s.released snapshot ≠ 0#16 := fun hzero => by
  obtain ⟨k, hk⟩ := h
  have hmem : (s.released snapshot).getLsbD k.val = true := (s.getLsbD_released_iff k).mpr hk
  rw [(keySet_eq_zero_iff _).mp hzero k] at hmem
  cases hmem

/-- Whatever the free value, the key chosen among the released ones was released (R183). -/
theorem State.chooseKey_released (h : ∃ k : RegIdx, snapshot.getLsbD k.val = true ∧ s.keys.getLsbD k.val = false)
    (n : Nat) : snapshot.getLsbD (chooseKey (s.released snapshot) n).val = true ∧
      s.keys.getLsbD (chooseKey (s.released snapshot) n).val = false :=
  (s.getLsbD_released_iff _).mp (chooseKey_mem (s.released_ne_zero h) n)

end

/-! ### A poll of the key wait (R183) -/

section
variable {s : State} {snapshot : KeySet} (x : RegIdx)

theorem exec_ldVxK_of_held (hw : s.wait = .awaiting snapshot)
    (h : ∀ k : RegIdx, snapshot.getLsbD k.val = true → s.keys.getLsbD k.val = true) :
    exec (.ldVxK x) s = .next s.keepWaiting := by
  rw [exec_ldVxK_awaiting x hw, if_pos ((s.released_eq_zero snapshot).mpr h)]

theorem exec_ldVxK_of_released (hw : s.wait = .awaiting snapshot)
    (h : ∃ k : RegIdx, snapshot.getLsbD k.val = true ∧ s.keys.getLsbD k.val = false) :
    exec (.ldVxK x) s = .next (s.endWait x (s.released snapshot)) := by
  rw [exec_ldVxK_awaiting x hw, if_neg (s.released_ne_zero h)]

/-- A poll that goes on waiting refreshes the snapshot and will run again, and does nothing else. -/
theorem exec_keepWaiting {i : Instr} (h : exec i s = .next s.keepWaiting) : ∃ t, exec i s = .next t ∧
    t.wait = .awaiting s.keys ∧ t.pc = s.pc - 2#16 ∧ SameExcept [.wait, .pc] s t :=
  ⟨_, h, rfl, rfl, .of_withFields rfl⟩

variable (s) (released : KeySet)

/-- The key reported is the chosen one: its number fits a byte. -/
theorem State.endWait_reg_toNat : ((s.endWait x released).reg x).toNat = (s.chosenKey released).val := by
  rw [State.endWait, State.nextDraw_reg, State.setWait_reg, State.reg_setReg, if_pos rfl, BitVec.toNat_ofNat]
  omega

theorem State.regsExcept_endWait : RegsExcept [x] s (s.endWait x released) := fun r hr => by
  rw [State.endWait, State.nextDraw_reg, State.setWait_reg, State.reg_setReg, if_neg (List.ne_of_not_mem_cons hr)]

end

/-! ### What else could move the blocking state (R184) -/

theorem State.loadProgram_of_le (s : State) {bytes : List Byte} (h : bytes.length ≤ 3584) :
    s.loadProgram bytes = (s.loadReset.setMem (Memory.image Config.loadOffset bytes)).emit (.loadResult none) :=
  if_neg (Nat.not_lt.mpr h)

theorem State.loadProgram_of_gt (s : State) {bytes : List Byte} (h : 3584 < bytes.length) :
    s.loadProgram bytes = s.emit (.loadResult (some .programTooLarge)) :=
  if_pos h

section
variable {s t : State}

/-- A step of the engine that does not execute `LD Vx, K` leaves the blocking state alone, whether it fails or executes
another instruction. -/
theorem engineStep_wait (hs : ∀ w x, s.fetchWord = some w → decodeWord w ≠ .ok (.ldVxK x))
    (h : engineStep s = .next t) : t.wait = s.wait := by
  obtain ⟨_, rfl⟩ | ⟨_, _, _, _, rfl⟩ | ⟨w, i, hw, hd, h⟩ := engineStep_cases h
  · rfl
  · rfl
  · have hi : ∀ x, i ≠ .ldVxK x := fun x hx => hs w x hw (hx ▸ hd)
    calc t.wait = s.advanced.wait := (exec_flow hi h).wait_eq
      _ = s.wait := s.advanced_wait

/-- No message but `Step` and an accepted load moves the blocking state. -/
theorem handle_wait {m : Message} (hstep : m ≠ .command .step)
    (hload : ∀ bytes, m = .command (.loadProgram bytes) → 3584 < bytes.length) (h : handle m s = .next t) :
    t.wait = s.wait := by
  rcases m with c | _
  · cases c with
    | step => exact absurd rfl hstep
    | loadProgram bytes =>
      obtain rfl : s.loadProgram bytes = t := Host.Outcome.next.inj h
      rw [s.loadProgram_of_gt (hload bytes rfl), State.emit_wait]
    | loadSettings | runProgram | stop | queryDisplay | queryState | sendKeys =>
      obtain rfl := Host.Outcome.next.inj h
      rfl
  · obtain rfl := Host.Outcome.next.inj h
    rfl

end

/-! ### The obligations of the keypad -/

/-- Settles O32: the three rows of the table are the polls `exec_keepWaiting` and `State.endWait`; that nothing else moves
the machine is `Flow.wait_eq`, `engineStep_wait` and `handle_wait`. -/
theorem keyWaitFollowsTheTable : Obligations.KeyWaitFollowsTheTable := by
  unfold Obligations.KeyWaitFollowsTheTable
  refine ⟨fun x s hw => exec_keepWaiting (exec_ldVxK_idle x hw),
    fun x s snapshot hw hheld => exec_keepWaiting (exec_ldVxK_of_held x hw hheld),
    fun x s snapshot hw hrel => ?_, fun i s t hi h => (exec_flow hi h).wait_eq, fun s hs => ?_,
    fun m s t hstep hload h => handle_wait hstep hload h, fun keys s => ⟨_, rfl, rfl, .of_withFields rfl⟩,
    fun bytes s t hlen h => ?_⟩
  · obtain ⟨hsnap, hkeys⟩ := s.chooseKey_released hrel (Config.chosenIndex s.draws)
    exact ⟨_, exec_ldVxK_of_released x hw hrel, rfl, rfl, ⟨_, hsnap, hkeys, s.endWait_reg_toNat x _⟩,
      s.regsExcept_endWait x _, .of_withFields rfl⟩
  · obtain ⟨t, ht⟩ := engineStep_next s
    have hwait : t.wait = s.wait := engineStep_wait hs ht
    exact ⟨⟨t, ht, hwait⟩, t.reportStep, congrArg (mapNext State.reportStep) ht, hwait⟩
  · obtain rfl : s.loadProgram bytes = t := Host.Outcome.next.inj h
    rw [s.loadProgram_of_le hlen]
    rfl

/-- Settles O33: the number that is drawn selects a member of the released set, and every member is selected by some number
(`chooseKey_surjective`). The choice is decision D29; its number and the draw counter are the model's own (log entries 6
and 7). -/
theorem anyReleasedKeyCanBeReported : Obligations.AnyReleasedKeyCanBeReported := by
  unfold Obligations.AnyReleasedKeyCanBeReported
  refine fun x => ⟨.of_lowByte (op := 0xF) (low := 0x0A) rfl, fun s snapshot hw hrel =>
    ⟨⟨_, exec_ldVxK_of_released x hw hrel, rfl, s.endWait_reg_toNat x _⟩, s.chooseKey_released hrel,
      fun k hsnap hkeys => chooseKey_surjective ((s.getLsbD_released_iff k).mpr ⟨hsnap, hkeys⟩)⟩⟩

/-- Settles O31, by `exec_skip` on `State.pressed_iff` and on its negation. The whole byte counts: decision D19 (log
entry 17). -/
theorem skipOnKey : Obligations.SkipOnKey := by
  unfold Obligations.SkipOnKey
  refine fun x => ⟨⟨.of_lowByte (op := 0xE) (low := 0x9E) rfl, fun s => exec_skip rfl (s.pressed_iff _)⟩,
    .of_lowByte (op := 0xE) (low := 0xA1) rfl, fun s => ?_⟩
  have hnot : (!s.pressed (s.reg x)) = true ↔ ¬ ((s.reg x).toNat ≤ 15 ∧ s.keys.getLsbD (s.reg x).toNat = true) := by
    rw [Bool.not_eq_true', ← Bool.not_eq_true, s.pressed_iff]
  obtain ⟨t, ht, hframe, hpc⟩ := exec_skip (i := .sknp x) (s := s) rfl hnot
  exact ⟨t, ht, hframe, hpc.trans (ite_not ..)⟩

end Sys2Proof.Machine
end

section
/-! Timers, index arithmetic and memory transfers (45_timer_index_memory.md R190 to R197). An instruction with a range check
either fails as a whole (`exec_of_outOfRange`, said once for the three of them) or transfers all its bytes: a store leaves
what `State.byteAt_store_add` says, a load what `State.reg_setRegs_bytesAtI` says, and a bulk transfer then moves `I` by
`State.advanceI`. -/

namespace Sys2Proof.Machine

/-! ### The range check (R69, R195 to R197) -/

/-- An instruction whose `n` bytes at `I` do not all lie in memory reports `MemoryOutOfBounds` with its own address and word,
and nothing else changes (R256, R257). -/
theorem exec_of_outOfRange {i : Instr} {s t : State} {n word : Nat} (hword : Decodes word i)
    (h : exec i s = .next (if inRange s.address n then t else s.raise .memoryOutOfBounds i)) (hn : 0 < n)
    (hout : 4096 < s.address + n) :
    ∃ u, exec i s = .next u ∧
      u.failure = some { kind := .memoryOutOfBounds, addr := s.pc - 2#16, word := BitVec.ofNat 16 word } ∧
      SameExcept [.failure] s u := by
  rw [inRange_eq_false hout hn, if_neg Bool.false_ne_true] at h
  refine ⟨_, h, ?_, .raise s .memoryOutOfBounds i⟩
  rw [State.raise_failure, encode_of_decodeWord hword]

/-! ### The index after a bulk transfer (R196, R197) -/

section
variable {s t : State} {changed : List Field}

theorem SameExcept.setI (h : SameExcept changed s t) (hi : .i ∈ changed) (v : Word) :
    SameExcept changed s (t.setI v) := by
  intro f hf
  cases f with
  | i => exact absurd hi hf
  | _ => exact h _ hf

/-- Among the fields, a bulk transfer's last part writes `I` alone. -/
theorem SameExcept.advanceI (h : SameExcept changed s t) (hi : .i ∈ changed) (last : RegIdx) :
    SameExcept changed s (t.advanceI last) := by
  rw [State.advanceI_eq]
  exact h.setI hi _

@[simp] theorem State.advanceI_reg (last r : RegIdx) : (s.advanceI last).reg r = s.reg r := by
  rw [State.advanceI_eq, State.setI_reg]

/-- After a transfer that lies in memory the index has not wrapped. -/
theorem State.advanceI_i_toNat {last : RegIdx} (h : s.i.toNat + last.val + 1 ≤ 4096) :
    (s.advanceI last).i.toNat = if s.q.mem then s.i.toNat + last.val + 1 else s.i.toNat := by
  rw [State.advanceI_eq, State.setI_i]
  split
  · rw [BitVec.toNat_add, BitVec.toNat_ofNat]
    omega
  · rfl

end

/-! ### The bulk store (R196) -/

section
variable {s : State} {a : Nat} {x : RegIdx} (hm : s.mem.wf = true) (ha : a + x.val + 1 ≤ 4096)
include hm ha

theorem State.byteAt_store_regsUpTo {k : RegIdx} (hk : k ≤ x) :
    (s.store a (s.regsUpTo x)).byteAt (a + k.val) = s.reg k := by
  have hlen := s.regsUpTo_length x
  rw [State.byteAt_store_add hm (hlen.symm ▸ ha) (hlen.symm ▸ Nat.lt_succ_of_le hk)]
  exact s.regsUpTo_getD x k.val hk

theorem State.bytesExcept_store_regsUpTo : BytesExcept a (x.val + 1) s (s.store a (s.regsUpTo x)) := by
  have hlen := s.regsUpTo_length x
  rw [← hlen]
  exact State.bytesExcept_store hm (hlen.symm ▸ ha)

end

/-! ### The bulk load (R197) -/

section
variable {s : State}

theorem exec_ldRegs_of_inRange (x : RegIdx) (h : s.address + x.val + 1 ≤ 4096) :
    exec (.ldRegs x) s = .next ((s.setRegs (putRegs s.x 0 (s.bytesAtI (x.val + 1)))).advanceI x) :=
  congrArg Host.Outcome.next (if_pos ((inRange_pos (Nat.succ_pos _)).mpr h))

/-- The registers up to `x` hold the bytes at `I`, the registers above it keep their values. -/
theorem State.reg_setRegs_bytesAtI (x k : RegIdx) :
    (s.setRegs (putRegs s.x 0 (s.bytesAtI (x.val + 1)))).reg k =
      if k ≤ x then s.byteAt (s.i.toNat + k.val) else s.reg k := by
  rw [State.reg_setRegs, putRegs_get s.x 0 _ k.val k.isLt, State.bytesAtI_length]
  by_cases hk : k ≤ x
  · have hlt : k.val < x.val + 1 := Nat.lt_succ_of_le hk
    rw [if_pos hk, if_pos (by omega), Nat.sub_zero, State.bytesAtI_getD _ _ _ hlt]
  · have hgt : x.val < k.val := Nat.lt_of_not_le hk
    rw [if_neg hk, if_neg (by omega), State.reg]

end

/-! ### Index arithmetic (R193, R194) -/

theorem beyondMemory_iff (v : Word) : beyondMemory v = true ↔ 4096 ≤ v.toNat := by
  rw [beyondMemory, decide_eq_true_eq]

section
variable {i : Instr} {s : State} {v : Word}

/-- An instruction that writes `I` and raises the flag when `c` holds writes `VF` only then, and no other register or field
(D18). -/
theorem exec_setI_flagIf {c : Bool} (h : exec i s = .next (if c then (s.setI v).setFlag true else s.setI v)) :
    ∃ t, exec i s = .next t ∧ t.i = v ∧ t.reg 15 = (if c then 1#8 else s.reg 15) ∧ RegsExcept [15] s t ∧
      SameExcept [.x, .i] s t := by
  cases c with
  | false => exact ⟨_, h, rfl, rfl, fun r _ => s.setI_reg v r, .of_withFields rfl⟩
  | true =>
    refine ⟨_, h, rfl, State.reg_setFlag (s.setI v) true 15, fun r hr => ?_, .of_withFields rfl⟩
    rw [if_pos rfl, State.reg_setFlag, vf, if_neg (List.ne_of_not_mem_cons hr), State.setI_reg]

theorem exec_ldF_of_le {x : RegIdx} (h : (s.reg x).toNat ≤ 15) :
    exec (.ldF x) s = .next (s.setI (glyphAddress (s.reg x))) :=
  congrArg Host.Outcome.next (if_pos h)

theorem exec_ldF_of_gt {x : RegIdx} (h : 15 < (s.reg x).toNat) : exec (.ldF x) s = .next s :=
  congrArg Host.Outcome.next (if_neg (Nat.not_le.mpr h))

end

/-! ### The obligations of this file of the spec -/

/-- Settles O37: in range the digits are those of `State.byteAt_store_decimalDigits`, out of range the instruction raises
(`exec_of_outOfRange`). -/
theorem decimalStore : Obligations.DecimalStore := by
  unfold Obligations.DecimalStore
  intro x
  have hword : Decodes (0xF033 + 256 * x.val) (.ldB x) := .of_lowByte (op := 0xF) (low := 0x33) rfl
  refine ⟨hword, fun s hm hr => ?_, fun s hout => exec_of_outOfRange hword rfl (by decide) hout⟩
  obtain ⟨hhundreds, htens, hones⟩ := State.byteAt_store_decimalDigits hm hr (s.reg x)
  exact ⟨_, exec_ldB_of_inRange x hr, rfl, hhundreds, htens, hones,
    State.bytesExcept_store (bs := decimalDigits (s.reg x)) hm hr, .of_withFields rfl⟩

/-- Settles O38: in range the bytes are stored first and `I` moves past them, out of range the instruction raises
(`exec_of_outOfRange`). -/
theorem bulkStore : Obligations.BulkStore := by
  unfold Obligations.BulkStore
  intro x
  have hword : Decodes (0xF055 + 256 * x.val) (.stRegs x) := .of_lowByte (op := 0xF) (low := 0x55) rfl
  refine ⟨hword, fun s hm hr => ?_, fun s hout => exec_of_outOfRange hword rfl (Nat.succ_pos _) hout⟩
  have hstore : SameExcept [.mem, .i] s (s.store s.address (s.regsUpTo x)) := .of_withFields rfl
  refine ⟨_, exec_stRegs_of_inRange x hr, rfl, fun k hk => ?_, fun b hb => ?_,
    State.advanceI_i_toNat (s := s.store s.address (s.regsUpTo x)) hr, hstore.advanceI (by decide) x⟩
  · rw [State.advanceI_byteAt, State.byteAt_store_regsUpTo hm hr hk]
  · rw [State.advanceI_byteAt, State.bytesExcept_store_regsUpTo hm hr b hb]

/-- Settles O39: in range the registers are loaded from the old `I` before it moves, out of range the instruction raises
(`exec_of_outOfRange`). -/
theorem bulkLoad : Obligations.BulkLoad := by
  unfold Obligations.BulkLoad
  intro x
  have hword : Decodes (0xF065 + 256 * x.val) (.ldRegs x) := .of_lowByte (op := 0xF) (low := 0x65) rfl
  refine ⟨hword, fun s hr => ?_, fun s hout => exec_of_outOfRange hword rfl (Nat.succ_pos _) hout⟩
  have hload (v : Vector Byte 16) : SameExcept [.x, .i] s (s.setRegs v) := .of_withFields rfl
  refine ⟨_, exec_ldRegs_of_inRange x hr, fun k => ?_, State.advanceI_i_toNat (s := s.setRegs _) hr,
    (hload _).advanceI (by decide) x⟩
  rw [State.advanceI_reg, State.reg_setRegs_bytesAtI]

/-- Settles O34: one register or one timer is written; the audio level is in no row of the table `fieldsWritten`. -/
theorem timerCopies : Obligations.TimerCopies := by
  unfold Obligations.TimerCopies
  exact fun x => ⟨⟨.of_lowByte (op := 0xF) (low := 0x07) rfl, fun s => exec_setReg rfl⟩,
    ⟨.of_lowByte (op := 0xF) (low := 0x15) rfl, fun s => ⟨_, rfl, rfl, exec_sameExcept (i := .ldDtVx x) rfl⟩⟩,
    .of_lowByte (op := 0xF) (low := 0x18) rfl, fun s => ⟨_, rfl, rfl, exec_sameExcept (i := .ldStVx x) rfl⟩⟩

/-- Settles O35, by `exec_setI_flagIf` at the range check of the new `I`. The wrap and the missing clear are decision D18
(log entry 16). -/
theorem addToIndexChecksTheRange : Obligations.AddToIndexChecksTheRange := by
  unfold Obligations.AddToIndexChecksTheRange
  refine fun x => ⟨.of_lowByte (op := 0xF) (low := 0x1E) rfl, fun s => ?_⟩
  have hsum : (s.i + (s.reg x).zext).toNat = (s.i.toNat + (s.reg x).toNat) % 65536 := by
    rw [BitVec.toNat_add, Byte.zext_toNat]
  obtain ⟨t, ht, hi, hvf, hframe⟩ := exec_setI_flagIf (i := .addI x) (s := s) rfl
  refine ⟨t, ht, hi ▸ hsum, hvf.trans (if_congr ?_ rfl rfl), hframe⟩
  rw [Bool.and_eq_true, beyondMemory_iff, hsum]

/-- Settles O36, by the two sides of 15. `FONT_BASE` is the OPEN parameter (log entry 2). -/
theorem loadFontAddress : Obligations.LoadFontAddress := by
  unfold Obligations.LoadFontAddress
  refine fun x => ⟨.of_lowByte (op := 0xF) (low := 0x29) rfl, fun s => ?_⟩
  by_cases h : (s.reg x).toNat ≤ 15
  · exact ⟨_, exec_ldF_of_le h, fun _ => ⟨glyphAddress_toNat (s.reg x) h, .of_withFields rfl⟩,
      fun hgt => absurd h (Nat.not_le.mpr hgt)⟩
  · exact ⟨s, exec_ldF_of_gt (Nat.not_le.mp h), fun hle => absurd hle h, fun _ => rfl⟩

end Sys2Proof.Machine
end

section
/-! The host's messages (47_host_messages.md R211 to R221, R226 to R229). A message that is next is handled and its end
evaluates the audio level: said once for all nine (`Delivered.step_eq`, `Delivered.step_writes`), so that each message's
obligation states only what its handling writes. -/

namespace Sys2Proof.Machine

/-! ### One message (R211) -/

section
variable {m : Message} {rest : List Message} {s t u : State} {changed : List Field}

theorem Delivered.budget_eq (h : Delivered m rest s) : s.budget = 0 := h.1

/-- The message that is next is handled, and the message ends (R211). -/
theorem Delivered.step_eq (h : Delivered m rest s) (hu : handle m { s with inq := rest } = .next u) :
    step s = .next u.finishMessage := by
  obtain ⟨hbudget, hopen, hinq⟩ := h
  rw [step_of_message (State.not_draining_of_budget hbudget) hopen hinq, hu, mapNext_next]

/-- A message whose handling writes at most the fields `changed` writes nothing else but the queue and the audio level,
and that level stays if it was right and the sound timer was not written (R211, R224). -/
theorem Delivered.step_writes (h : Delivered m rest s) (hu : handle m { s with inq := rest } = .next u)
    (hframe : SameExcept changed { s with inq := rest } u) (haudio : .audio ∉ changed := by decide) :
    ∃ level, step s = .next { u with audio := level } ∧ MessageWrites changed s { u with audio := level } := by
  refine ⟨if u.draining then u.audio else audioLevel u.st, ?_, fun f hf => ?_, fun hlevel hst => ?_⟩
  · rw [h.step_eq hu, State.finishMessage_eq]
  · obtain ⟨hinq, hau, hc⟩ : f ≠ .inq ∧ f ≠ .audio ∧ f ∉ changed := by simpa using hf
    have hsame : SameField f { s with inq := rest } u := hframe f hc
    cases f with
    | inq => exact absurd rfl hinq
    | audio => exact absurd rfl hau
    | _ => exact hsame
  · have hsame : u.audio = s.audio := hframe .audio haudio
    have hasked : audioLevel u.st = s.audio := (congrArg audioLevel hst).trans hlevel.symm
    simp only [hsame, hasked, ite_self]

end

/-! ### What the engine leaves alone (R35, R76) -/

section
variable {s t : State}

/-- The engine writes neither the keys, nor the quirks, nor a field of the host. -/
theorem engineStep_sameExcept (h : engineStep s = .next t) :
    SameExcept [.x, .i, .pc, .mem, .stack, .fb, .dt, .st, .wait, .failure, .draws] s t := by
  obtain ⟨_, rfl⟩ | ⟨_, _, _, _, rfl⟩ | ⟨w, i, _, _, h⟩ := engineStep_cases h
  · exact .of_withFields rfl
  · exact .of_withFields rfl
  · have hexec := (exec_sameExcept h).mono fieldsWritten_subset
    intro f hf
    cases f with
    | pc | failure => simp at hf
    | _ => exact hexec _ hf

theorem engineStep_inq (h : engineStep s = .next t) : t.inq = s.inq :=
  (congrArg State.inq (engineStep_host h)).symm

theorem engineStep_outq (h : engineStep s = .next t) : t.outq = s.outq :=
  (congrArg State.outq (engineStep_host h)).symm

end

/-! ### What each message writes (R212 to R220) -/

section
variable {s t : State}

theorem State.loadProgram_q (s : State) (bytes : List Byte) : (s.loadProgram bytes).q = s.q := by
  unfold State.loadProgram
  split <;> rfl

/-- No message but `LoadSettings` writes the quirks (R212). -/
theorem handle_q {m : Message} (hm : ∀ quirks, m ≠ .command (.loadSettings quirks)) (h : handle m s = .next t) :
    t.q = s.q := by
  rcases m with c | _
  · cases c with
    | loadSettings quirks => exact absurd rfl (hm quirks)
    | step =>
      obtain ⟨u, hu, rfl⟩ := mapNext_eq_next h
      exact engineStep_sameExcept hu .q (by decide)
    | loadProgram bytes =>
      obtain rfl := Host.Outcome.next.inj h
      exact s.loadProgram_q bytes
    | runProgram | stop | queryDisplay | queryState | sendKeys =>
      obtain rfl := Host.Outcome.next.inj h
      rfl
  · obtain rfl := Host.Outcome.next.inj h
    rfl

/-- An accepted load answers the reset state with the image in memory; the message ends there (R213, R291). -/
theorem Delivered.step_loadProgram {bytes : List Byte} {rest : List Message}
    (h : Delivered (.command (.loadProgram bytes)) rest s) (hlen : bytes.length ≤ 3584) :
    step s = .next ((({ s with inq := rest }.loadReset).setMem (Memory.image Config.loadOffset bytes)).emit
      (.loadResult none)).updateAudio := by
  rw [h.step_eq (congrArg Host.Outcome.next (State.loadProgram_of_le _ hlen)), State.finishMessage_of_not_draining]
  exact State.not_draining_of_budget h.budget_eq

/-- `Stop` between messages finds the budget at 0 already (R216). -/
theorem handle_stop (h : s.budget = 0) : handle (.command .stop) s = .next { s with run := .stopped } := by
  simp only [handle, h]

theorem State.handleTick_budget_of_stopped (h : s.run = .stopped) : s.handleTick.budget = s.budget := by
  simp [State.handleTick, h]

theorem State.handleTick_budget_of_running {rate : Rate} (h : s.run = .running rate) :
    s.handleTick.budget = tickBudget rate := by
  simp [State.handleTick, h]

/-- One less, floored at zero (R31, R220). -/
theorem decrementTimer_toNat (v : Byte) : (decrementTimer v).toNat = v.toNat - 1 := by
  unfold decrementTimer
  split
  case isTrue hzero => simp [hzero]
  case isFalse hpos => bv_omega

theorem State.enqueue_of_open (h : s.inqOpen = true) (m : Message) : s.enqueue m = { s with inq := s.inq ++ [m] } :=
  if_pos h

end

/-! ### The obligations of the messages -/

/-- Settles O41: memory is the image over what a load reset leaves (`Memory.read_image`), every other field is
`State.loadReset`'s. The values are decisions D9 to D12 (log entries 3 and 23). -/
theorem loadProgramAccepted : Obligations.LoadProgramAccepted := by
  unfold Obligations.LoadProgramAccepted
  intro bytes rest s hnext hlen
  have hfont : Config.fontBase.val + 80 ≤ 0x200 := fontBase_add_le
  have hread : ∀ a, (Memory.image 0x200 bytes).read a =
      if 0x200 ≤ a ∧ a < 0x200 + bytes.length then bytes.getD (a - 0x200) 0#8 else resetByte a :=
    Memory.read_image (by omega)
  refine ⟨_, hnext.step_loadProgram hlen, fun r => Vector.getElem_replicate r.isLt, rfl, rfl, rfl, Framebuffer.get_blank,
    rfl, rfl, rfl, rfl, fun k hk => (hread _).trans ?_, fun k hk => (hread _).trans ?_,
    fun a hout hnot => (hread a).trans ?_, rfl, rfl, rfl, .of_withFields rfl⟩
  · rw [if_pos (by omega), Nat.add_sub_cancel_left]
  · rw [if_neg (by omega)]
    exact resetByte_font k hk
  · rw [if_neg (by omega)]
    exact resetByte_zero a hout

/-- Settles O43: the engine's one step is reported, and the engine writes no field of the host. -/
theorem stepMessageReportsOneStep : Obligations.StepMessageReportsOneStep := by
  unfold Obligations.StepMessageReportsOneStep
  intro rest s hnext
  obtain ⟨u, hu⟩ := engineStep_next { s with inq := rest }
  have hstep : step s = .next u.reportStep.finishMessage := by rw [step_eq_of_stepCommand hnext, hu, mapNext_next]
  rw [State.finishMessage_eq] at hstep
  have houtq : u.outq = s.outq := (engineStep_outq hu :)
  have hrun : u.run = s.run := (engineStep_run hu :)
  have hbudget : u.budget = s.budget := (engineStep_budget hu :)
  have hinq : u.inq = rest := engineStep_inq hu
  exact ⟨u, _, hu, hstep, congrArg (· ++ [Response.stepResult u.failure]) houtq, hrun, hbudget, hinq, .of_withFields rfl⟩

/-- Settles O47. That a step of the machine ends here is the model's choice (log entry 9). -/
theorem tickGrantsBudgetAndCountsDown : Obligations.TickGrantsBudgetAndCountsDown := by
  unfold Obligations.TickGrantsBudgetAndCountsDown
  intro rest s hnext
  obtain ⟨level, hstep, hwrites⟩ := hnext.step_writes (changed := [.budget, .dt, .st]) rfl (.of_withFields rfl)
  exact ⟨_, hstep, decrementTimer_toNat s.dt, decrementTimer_toNat s.st,
    fun hrun => State.handleTick_budget_of_stopped (s := { s with inq := rest }) hrun,
    fun rate hrun => State.handleTick_budget_of_running (s := { s with inq := rest }) hrun, rfl, hwrites⟩

/-- Settles O40, by the frame of the message and by `handle_q`. -/
theorem loadSettingsReplacesTheQuirks : Obligations.LoadSettingsReplacesTheQuirks := by
  unfold Obligations.LoadSettingsReplacesTheQuirks
  refine ⟨fun quirks rest s hnext => ?_, fun m s t hm h => handle_q hm h⟩
  obtain ⟨level, hstep, hwrites⟩ := hnext.step_writes (changed := [.q]) rfl (.of_withFields rfl)
  exact ⟨_, hstep, rfl, rfl, hwrites⟩

/-- Settles O44: between messages the budget is 0, so `Stop` leaves it as it is. -/
theorem runAndStop : Obligations.RunAndStop := by
  unfold Obligations.RunAndStop
  refine ⟨fun rate rest s hnext => ?_, fun rest s hnext => ?_⟩
  · obtain ⟨level, hstep, hwrites⟩ := hnext.step_writes (changed := [.run]) rfl (.of_withFields rfl)
    exact ⟨_, hstep, rfl, rfl, hwrites⟩
  · have hbudget : s.budget = 0 := hnext.budget_eq
    have hstop := handle_stop (s := { s with inq := rest }) hbudget
    obtain ⟨level, hstep, hwrites⟩ := hnext.step_writes (changed := [.run]) hstop (.of_withFields rfl)
    exact ⟨_, hstep, rfl, hbudget, rfl, hwrites⟩

/-- Settles O45: both queries append to the responses and write nothing else. -/
theorem queries : Obligations.Queries := by
  unfold Obligations.Queries
  refine ⟨fun rest s hnext => ?_, fun rest s hnext => ?_⟩
  · obtain ⟨level, hstep, hwrites⟩ := hnext.step_writes (changed := [.outq]) rfl (.of_withFields rfl)
    exact ⟨_, hstep, rfl, rfl, hwrites⟩
  · obtain ⟨level, hstep, hwrites⟩ := hnext.step_writes (changed := [.outq]) rfl (.of_withFields rfl)
    have hanswer (r : RunState) (hrun : s.run = r) :
        s.outq ++ [.runStatus s.run.isRunning] = s.outq ++ [.runStatus r.isRunning] := by rw [hrun]
    exact ⟨_, hstep, rfl, hwrites, hanswer .stopped, fun rate => hanswer (.running rate)⟩

/-- Settles O46. -/
theorem sendKeysReplacesTheSet : Obligations.SendKeysReplacesTheSet := by
  unfold Obligations.SendKeysReplacesTheSet
  intro keys rest s hnext
  obtain ⟨level, hstep, hwrites⟩ := hnext.step_writes (changed := [.keys]) rfl (.of_withFields rfl)
  exact ⟨_, hstep, rfl, rfl, hwrites⟩

/-- Settles O48: a quotient rounded up, and its value at 700. The exact evaluation is decision D23 (log entry 18). -/
theorem tickBudgetIsTheCeiling : Obligations.TickBudgetIsTheCeiling := by
  unfold Obligations.TickBudgetIsTheCeiling
  refine ⟨fun rate => ?_, by decide⟩
  unfold tickBudget
  omega

/-- Settles O53. The unbounded queues are decision D25 (log entry 21). -/
theorem otherAgentsTouchOnlyTheQueues : Obligations.OtherAgentsTouchOnlyTheQueues := by
  unfold Obligations.OtherAgentsTouchOnlyTheQueues
  refine fun s => ⟨fun hopen => ⟨?_, fun c => ?_⟩, ⟨_, rfl, rfl, rfl, .of_withFields rfl⟩, ⟨_, rfl, rfl, .of_withFields rfl⟩⟩
  · exact congrArg Host.Outcome.next (State.enqueue_of_open hopen .tick)
  · exact congrArg Host.Outcome.next (State.enqueue_of_open hopen (.command c))

end Sys2Proof.Machine
end

section
/-! The drain, the audio level and the end of the worker (47_host_messages.md R211, R222 to R224, R228). One drained step is
the engine's step accounted (`step_of_drained_ok`, `step_of_drained_fail`); the whole budget follows by induction, because
the engine does the same whatever budget and audio level the worker has left in the state (`engineRun_withHost`). -/

namespace Sys2Proof.Machine

/-! ### One drained step (R222, R223) -/

section
variable {s t u : State}

theorem State.draining_of_running {rate : Rate} (hrun : s.run = .running rate) (hbudget : 0 < s.budget) :
    s.draining = true := by
  simp [State.draining, RunState.isRunning, hrun, hbudget]

/-- A drained step that succeeds costs one unit of budget; the audio level is evaluated if it was the last (R222, R224). -/
theorem step_of_drained_ok (hd : s.draining = true) (hu : engineStep s = .next u) (hf : u.failure = none) :
    ∃ level, step s = .next { u with budget := s.budget - 1, audio := level } := by
  have haccount : u.accountDrained = { u with budget := s.budget - 1 } := by
    rw [State.accountDrained_ok hf, engineStep_budget hu, ← hf]
  rw [step_eq_of_draining hd, hu, mapNext_next, haccount, State.finishMessage_eq]
  exact ⟨_, rfl⟩

/-- A drained step that fails forfeits the budget, stops the run, is reported and ends the message (R223). -/
theorem step_of_drained_fail {f : Failure} (hd : s.draining = true) (hu : engineStep s = .next u)
    (hf : u.failure = some f) :
    step s = .next (State.updateAudio
      { u with budget := 0, run := .stopped, failure := none, outq := u.outq ++ [.runError f] }) := by
  rw [step_eq_of_draining hd, hu, mapNext_next, State.accountDrained_fail hf, State.finishMessage_of_not_draining]
  exact State.not_draining_of_budget rfl

end

/-! ### The whole budget (R222) -/

section
variable {s t u : State} {n : Nat}

theorem engineRun_succ_of_step (h : engineStep s = .next t) (n : Nat) :
    engineRun (n + 1) s = if t.failure = none then engineRun n t else none := by
  simp [engineRun, h]

/-- Any number of steps of the engine does the same with any other host state, and leaves it as it is (R4). -/
theorem engineRun_withHost (n : Nat) (s h : State) :
    engineRun n (s.withHost h) = (engineRun n s).map (State.withHost · h) := by
  induction n generalizing s with
  | zero => rfl
  | succ n ih =>
    obtain ⟨t, ht⟩ := engineStep_next s
    have hhost : engineStep (s.withHost h) = .next (t.withHost h) := by rw [engineStep_withHost, ht, mapNext_next]
    rw [engineRun_succ_of_step ht, engineRun_succ_of_step hhost, ih]
    exact (apply_ite (Option.map (State.withHost · h)) (t.failure = none) (engineRun n t) none).symm

theorem engineRun_host (h : engineRun n s = some u) : u.withHost s = u := by
  have hself : engineRun n s = (engineRun n s).map (State.withHost · s) := engineRun_withHost n s s
  rw [h] at hself
  exact (Option.some.inj hself).symm

theorem core_run_succ {M : Host.Core} {s t : M.State} (h : M.step s = .next t) (n : Nat) :
    M.run (n + 1) s = M.run n t := by
  rw [Host.Core.run, h]

/-- As many steps of the machine as the budget are those steps of the engine, and leave budget 0 (R222). The state that a
drained step leaves is the engine's but for the budget and the audio level, which `engineRun_withHost` carries along. -/
theorem core_run_of_engineRun {rate : Rate} (hrun : s.run = .running rate) (hbudget : s.budget = n)
    (h : engineRun n s = some u) :
    ∃ level, Host.Core.run Sys2Proof.core n s = .next { u with budget := 0, audio := level } := by
  induction n generalizing s u with
  | zero =>
    obtain rfl : s = u := Option.some.inj h
    have hzero : s = { s with budget := 0 } := by rw [← hbudget]
    exact ⟨s.audio, congrArg Host.Outcome.next hzero⟩
  | succ n ih =>
    obtain ⟨v, hv⟩ := engineStep_next s
    rw [engineRun_succ_of_step hv, Option.ite_none_right_eq_some] at h
    obtain ⟨hf, h⟩ := h
    obtain ⟨level, hstep⟩ := step_of_drained_ok (State.draining_of_running hrun (by omega)) hv hf
    rw [hbudget, Nat.add_sub_cancel] at hstep
    have hrest : engineRun n { v with budget := n, audio := level } = some { u with budget := n, audio := level } :=
      calc engineRun n (v.withHost { v with budget := n, audio := level })
          = some (u.withHost { v with budget := n, audio := level }) := by rw [engineRun_withHost, h, Option.map_some]
        _ = some { u.withHost v with budget := n, audio := level } := rfl
        _ = some { u with budget := n, audio := level } := by rw [engineRun_host h]
    have hvrun : v.run = .running rate := (engineStep_run hv).trans hrun
    obtain ⟨level, hcore⟩ := ih (s := { v with budget := n, audio := level }) hvrun rfl hrest
    exact ⟨level, (core_run_succ (M := Sys2Proof.core) hstep n).trans hcore⟩

end

/-! ### The audio level (R224) -/

section
variable {s : State}

theorem audioLevel_of_pos {st : Byte} (h : 0 < st.toNat) : audioLevel st = .play :=
  if_neg fun hzero => by simp [hzero] at h

theorem audioLevel_of_zero {st : Byte} (h : st.toNat = 0) : audioLevel st = .pause :=
  if_pos (BitVec.eq_of_toNat_eq h)

/-- A message that is over has evaluated the audio level (R211). -/
theorem State.audio_finishMessage (h : s.finishMessage.draining = false) :
    s.finishMessage.audio = audioLevel s.finishMessage.st := by
  rw [State.finishMessage_eq] at h ⊢
  exact if_neg (ne_true_of_eq_false h)

end

/-! ### The closed queue (R228) -/

section
variable {s : State}

/-- The worker goes on while an instruction is owed or the inbound queue is open (R211). -/
theorem step_next (h : s.draining = true ∨ s.inqOpen = true) : ∃ t, step s = .next t := by
  cases hd : s.draining with
  | true =>
    obtain ⟨u, hu⟩ := engineStep_next s
    exact ⟨_, by rw [step_eq_of_draining hd, hu, mapNext_next]⟩
  | false =>
    have hopen : s.inqOpen = true := h.resolve_left (ne_true_of_eq_false hd)
    cases hq : s.inq with
    | nil => exact ⟨s, step_of_waiting hd hopen hq⟩
    | cons m rest =>
      obtain ⟨u, hu⟩ := handle_next m { s with inq := rest }
      exact ⟨_, by rw [step_of_message hd hopen hq, hu, mapNext_next]⟩

theorem step_of_closed_nil (hd : s.draining = false) (hclosed : s.inqOpen = false) (hq : s.inq = []) :
    step s = .fault .workerExited := by
  simp [step, workerStep, hd, hclosed, hq]

theorem step_of_closed_cons {m : Message} {rest : List Message} (hd : s.draining = false) (hclosed : s.inqOpen = false)
    (hq : s.inq = m :: rest) : step s = .refused .queuedAtClose := by
  simp [step, workerStep, hd, hclosed, hq]

end

/-! ### The obligations of the drain and of the shutdown -/

/-- Settles O49: one step by `step_of_drained_ok` and `step_of_drained_fail`, the whole budget by induction
(`core_run_of_engineRun`). That one iteration is one step of the machine is the model's choice (log entry 9). -/
theorem drainRunsTheWholeBudget : Obligations.DrainRunsTheWholeBudget := by
  unfold Obligations.DrainRunsTheWholeBudget
  refine ⟨fun s u rate hrun hbudget hu => ?_, fun s u rate hrun _ hu => ?_⟩
  · have hd : s.draining = true := State.draining_of_running hrun hbudget
    have hinq : u.inq = s.inq := engineStep_inq hu
    have hsame : u.run = s.run := engineStep_run hu
    refine ⟨fun hf => ?_, fun f hf => ?_⟩
    · obtain ⟨level, hstep⟩ := step_of_drained_ok hd hu hf
      exact ⟨_, hstep, rfl, hinq, hsame, .of_withFields rfl⟩
    · exact ⟨_, step_of_drained_fail hd hu hf, rfl, hinq, State.not_draining_of_budget rfl⟩
  · obtain ⟨level, hcore⟩ := core_run_of_engineRun hrun rfl hu
    have hhost : u.withHost s = u := engineRun_host hu
    exact ⟨_, hcore, rfl, (congrArg State.run hhost).symm.trans hrun, (congrArg State.inq hhost).symm, .of_withFields rfl⟩

/-- Settles O50: the failed step's state with the failure taken from it (log entries 8 and 9). -/
theorem drainFailureStopsTheRun : Obligations.DrainFailureStopsTheRun := by
  unfold Obligations.DrainFailureStopsTheRun
  intro s u rate f hrun hbudget hu hf
  have houtq : u.outq = s.outq := engineStep_outq hu
  exact ⟨_, step_of_drained_fail (State.draining_of_running hrun hbudget) hu hf, rfl, rfl,
    congrArg (· ++ [Response.runError f]) houtq, rfl, .of_withFields rfl⟩

/-- Settles O51: both kinds of step that do something end in `State.finishMessage`. That the level is evaluated after every
message is decision D24 (log entries 9 and 19). -/
theorem audioIsEvaluatedAfterEveryMessage : Obligations.AudioIsEvaluatedAfterEveryMessage := by
  unfold Obligations.AudioIsEvaluatedAfterEveryMessage
  intro s t h hbusy hover
  have hlevel : t.audio = audioLevel t.st := by
    obtain ⟨_, u, _, rfl⟩ | ⟨_, _, m, rest, u, _, _, rfl⟩ | ⟨hd, _, hq, _⟩ := step_cases h
    · exact State.audio_finishMessage hover
    · exact State.audio_finishMessage hover
    · exact absurd hbusy (by simp [hd, hq])
  exact ⟨fun hpos => hlevel.trans (audioLevel_of_pos hpos), fun hzero => hlevel.trans (audioLevel_of_zero hzero)⟩

/-- Settles O52: a worker that can go on does (`step_next`), and the two stops are told apart by the queue. What is queued at
the close is decision D34 (log entry 22). -/
theorem onlyShutdownStopsTheWorker : Obligations.OnlyShutdownStopsTheWorker := by
  unfold Obligations.OnlyShutdownStopsTheWorker
  intro s
  have hstopped (h : ∀ t, step s ≠ .next t) : s.draining = false ∧ s.inqOpen = false := by
    rw [← Bool.not_eq_true, ← Bool.not_eq_true, ← not_or]
    exact fun hlive => (step_next hlive).elim h
  refine ⟨⟨fun h => ?_, fun ⟨hd, hclosed, hq⟩ => step_of_closed_nil hd hclosed hq⟩, ⟨fun h => ?_, ?_⟩, step_of_waiting,
    step_next⟩
  · obtain ⟨hd, hclosed⟩ := hstopped fun t ht => nomatch h.symm.trans ht
    refine ⟨hd, hclosed, ?_⟩
    cases hq : s.inq with
    | nil => rfl
    | cons m rest => exact nomatch h.symm.trans (step_of_closed_cons hd hclosed hq)
  · obtain ⟨hd, hclosed⟩ := hstopped fun t ht => nomatch h.symm.trans ht
    exact ⟨hd, hclosed, fun hq => nomatch h.symm.trans (step_of_closed_nil hd hclosed hq)⟩
  · rintro ⟨hd, hclosed, hq⟩
    obtain ⟨m, rest, hq⟩ := List.exists_cons_of_ne_nil hq
    exact step_of_closed_cons hd hclosed hq

end Sys2Proof.Machine
end

section
/-! Failures (60_exceptions.md R250 to R257). Which instruction raises which kind is a relation (`Raises`), to which every
instruction is held once (`exec_failure_cases`); `engineStep_failure_cases` carries it to the engine, where every failure is
reported in a state that is otherwise the old one, but for the advance. Last, the rejected load, which is no failure of the
engine. -/

namespace Sys2Proof.Machine

/-! ### Which instruction raises which failure (R251 to R254) -/

/-- Instruction `i` can raise a failure of kind `k`. -/
inductive Raises : Instr → FailureKind → Prop where
  | ret : Raises .ret .stackUnderflow
  | sys (h : Config.sysBehaviour = .unknownInstruction) (nnn : Addr12) : Raises (.sys nnn) .unknownInstruction
  | drw (x y : RegIdx) (n : Fin 16) : Raises (.drw x y n) .memoryOutOfBounds
  | ldB (x : RegIdx) : Raises (.ldB x) .memoryOutOfBounds
  | stRegs (x : RegIdx) : Raises (.stRegs x) .memoryOutOfBounds
  | ldRegs (x : RegIdx) : Raises (.ldRegs x) .memoryOutOfBounds

/-- No instruction raises `RegisterIndexOutOfRange` (R252). -/
theorem Raises.kind_ne_registerIndexOutOfRange {i : Instr} {k : FailureKind} (h : Raises i k) :
    k ≠ .registerIndexOutOfRange := by
  cases h <;> decide

/-- Only `SYS` raises `UnknownInstruction`, and only under that value of the OPEN parameter (R122, R254). -/
theorem Raises.sys_of_unknownInstruction {i : Instr} (h : Raises i .unknownInstruction) :
    Config.sysBehaviour = .unknownInstruction ∧ ∃ nnn, i = .sys nnn := by
  cases h with
  | sys h nnn => exact ⟨h, nnn, rfl⟩

section
variable {i : Instr} {s t : State} {f : Failure}

/-- An instruction whose row of the table has no report cannot fail. -/
theorem exec_failure_eq (hi : .failure ∉ fieldsWritten i) (h : exec i s = .next t) : t.failure = s.failure :=
  exec_sameExcept h .failure hi

@[simp] theorem State.advanceI_failure (s : State) (last : RegIdx) : (s.advanceI last).failure = s.failure := by
  rw [State.advanceI_eq, State.setI_failure]

/-- A range check: the transfer keeps the empty report, so a report is the check's own (R69). -/
theorem failure_ite_raise {p : Prop} [Decidable p] {u : State} {k : FailureKind} (hu : u.failure = none)
    (hf : (if p then u else s.raise k i).failure = some f) : (if p then u else s.raise k i) = s.raise k i := by
  by_cases hp : p
  · rw [if_pos hp, hu] at hf
    cases hf
  · exact if_neg hp

/-- An instruction that fails has raised one of its failures and done nothing else (R256, R257). -/
theorem exec_failure_cases (hs : s.failure = none) (h : exec i s = .next t) (hf : t.failure = some f) :
    ∃ k, Raises i k ∧ t = s.raise k i := by
  have hwritten : .failure ∈ fieldsWritten i := by
    by_contra hi
    rw [exec_failure_eq hi h, hs] at hf
    cases hf
  cases i with
  | ret =>
    cases hstack : s.stack with
    | nil => exact ⟨_, .ret, Host.Outcome.next.inj (h.symm.trans (exec_ret_nil hstack))⟩
    | cons a rest =>
      obtain rfl := Host.Outcome.next.inj (h.symm.trans (exec_ret_cons hstack))
      cases hs.symm.trans hf
  | sys nnn =>
    cases hb : Config.sysBehaviour with
    | noOp =>
      obtain rfl := Host.Outcome.next.inj (h.symm.trans (exec_sys_noOp hb nnn s))
      cases hs.symm.trans hf
    | unknownInstruction =>
      exact ⟨_, .sys hb nnn, Host.Outcome.next.inj (h.symm.trans (exec_sys_unknownInstruction hb nnn s))⟩
  | drw x y n =>
    obtain rfl := Host.Outcome.next.inj h
    exact ⟨_, .drw x y n, failure_ite_raise hs hf⟩
  | ldB x =>
    obtain rfl := Host.Outcome.next.inj h
    exact ⟨_, .ldB x, failure_ite_raise hs hf⟩
  | stRegs x =>
    obtain rfl := Host.Outcome.next.inj h
    exact ⟨_, .stRegs x, failure_ite_raise ((State.advanceI_failure _ x).trans hs) hf⟩
  | ldRegs x =>
    obtain rfl := Host.Outcome.next.inj h
    exact ⟨_, .ldRegs x, failure_ite_raise ((State.advanceI_failure _ x).trans hs) hf⟩
  | _ => simp [fieldsWritten] at hwritten

end

/-! ### The words that fail (R95, R96, R254) -/

/-- The words of `SYS`: first nibble 0, and neither of the two fixed words (R95). -/
theorem decodeWord_eq_sys_iff {w : Word} :
    (∃ nnn, decodeWord w = .ok (.sys nnn)) ↔ w.toNat < 0x1000 ∧ w ≠ 0x00E0#16 ∧ w ≠ 0x00EE#16 := by
  constructor
  · rintro ⟨nnn, hd⟩
    refine ⟨?_, ?_, ?_⟩
    · rw [← encode_of_decodeWord hd, encode, formatNNN_toNat (by decide)]
      omega
    all_goals
      rintro rfl
      cases hd
  · rintro ⟨hlt, hcls, hret⟩
    have hop : Word.fieldOp w = 0 := Nat.div_eq_of_lt hlt
    exact ⟨w.fieldNNN, decodeWord_eq hop hcls hret⟩

theorem decodeWord_of_unknownWord {w : Word} (h : UnknownWord w) : decodeWord w = .error (.unknownInstruction w) :=
  decodeWord_verdict.error_iff.mpr h

theorem unknownWord_of_decodeWord {w : Word} {e : DecodeError} (h : decodeWord w = .error e) : UnknownWord w := by
  by_contra hw
  obtain ⟨i, hi⟩ := decodeWord_verdict.ok_iff.mpr hw
  cases h.symm.trans hi

/-! ### A failing step of the engine (R256, R257) -/

section
variable {s t : State} {w : Word}

/-- A failure raised by the instruction at `pc` reports that `pc` and the fetched word (D21). -/
theorem State.raise_advanced {i : Instr} (hd : decodeWord w = .ok i) (k : FailureKind) :
    s.advanced.raise k i = s.advanced.fail k s.pc w := by
  rw [State.raise, State.advanced_pc, BitVec.add_sub_cancel, encode_of_decodeWord hd]

/-- A step of the engine that fails is a failed fetch, which leaves `pc` alone, or, after the advance, an unknown word or an
instruction that raises; either way nothing else changes (R257). -/
theorem engineStep_failure_cases {f : Failure} (h : engineStep s = .next t) (hf : t.failure = some f) :
    (s.fetchWord = none ∧ t = s.fail .memoryOutOfBounds s.pc 0#16) ∨
    (∃ w k, s.fetchWord = some w ∧ t = s.advanced.fail k s.pc w ∧
      (k = .unknownInstruction ∧ UnknownWord w ∨ ∃ i, decodeWord w = .ok i ∧ Raises i k)) := by
  obtain hfetch | ⟨w, e, hw, hd, ht⟩ | ⟨w, i, hw, hd, h⟩ := engineStep_cases h
  · exact .inl hfetch
  · exact .inr ⟨w, _, hw, ht, .inl ⟨rfl, unknownWord_of_decodeWord hd⟩⟩
  · obtain ⟨k, hk, rfl⟩ := exec_failure_cases s.advanced_failure h hf
    exact .inr ⟨w, k, hw, State.raise_advanced hd k, .inr ⟨i, hd, hk⟩⟩

/-- The step on a word of R96, and on a word of `SYS` that is none (R254). -/
theorem engineStep_of_unknown (hw : s.fetchWord = some w)
    (h : UnknownWord w ∨
      (Config.sysBehaviour = .unknownInstruction ∧ w.toNat < 0x1000 ∧ w ≠ 0x00E0#16 ∧ w ≠ 0x00EE#16)) :
    engineStep s = .next (s.advanced.fail .unknownInstruction s.pc w) := by
  obtain hunknown | ⟨hb, hsys⟩ := h
  · exact engineStep_of_error hw (decodeWord_of_unknownWord hunknown)
  · obtain ⟨nnn, hd⟩ := decodeWord_eq_sys_iff.mpr hsys
    rw [engineStep_of_ok hw hd, exec_sys_unknownInstruction hb, State.raise_advanced hd]

end

/-! ### Who answers a load (R213, R255) -/

section
variable {s t : State} {e : Option LoadError}

/-- The result of a drained step is no answer to a load (R223). -/
theorem State.mem_outq_of_accountDrained (h : .loadResult e ∈ s.accountDrained.outq) : .loadResult e ∈ s.outq := by
  cases hf : s.failure with
  | none => rwa [State.accountDrained_ok hf] at h
  | some f =>
    rw [State.accountDrained_fail hf] at h
    simpa using h

/-- A load answers `ProgramTooLarge` only for an image that is (R255). -/
theorem State.mem_outq_of_loadProgram {bytes : List Byte}
    (h : .loadResult (some .programTooLarge) ∈ (s.loadProgram bytes).outq) :
    .loadResult (some .programTooLarge) ∈ s.outq ∨ 3584 < bytes.length := by
  refine or_iff_not_imp_right.mpr fun hle => ?_
  rw [s.loadProgram_of_le (Nat.not_lt.mp hle)] at h
  have hout : .loadResult (some .programTooLarge) ∈ s.outq ++ [.loadResult none] := h
  simpa using hout

/-- No message but `LoadProgram` answers a load. -/
theorem handle_mem_outq {m : Message} (hm : ∀ bytes, m ≠ .command (.loadProgram bytes)) (h : handle m s = .next t)
    (hr : .loadResult e ∈ t.outq) : .loadResult e ∈ s.outq := by
  rcases m with c | _
  · cases c with
    | loadProgram bytes => exact absurd rfl (hm bytes)
    | step =>
      obtain ⟨u, hu, rfl⟩ := mapNext_eq_next h
      rw [← engineStep_outq hu]
      simpa [State.reportStep] using hr
    | queryDisplay | queryState =>
      obtain rfl := Host.Outcome.next.inj h
      simpa using hr
    | loadSettings | runProgram | stop | sendKeys =>
      obtain rfl := Host.Outcome.next.inj h
      exact hr
  · obtain rfl := Host.Outcome.next.inj h
    exact hr

theorem State.finishMessage_outq (s : State) : s.finishMessage.outq = s.outq := by
  rw [State.finishMessage_eq]

end

/-! ### The obligations of the failures -/

/-- Settles O7: the step on such a word is `engineStep_of_unknown`, and a step that reports the failure is among
`engineStep_failure_cases`, where only an unknown word or `SYS` gives it. -/
theorem unknownWordFailsAfterTheAdvance : Obligations.UnknownWordFailsAfterTheAdvance := by
  unfold Obligations.UnknownWordFailsAfterTheAdvance
  refine ⟨fun s w hw hunknown => ⟨_, engineStep_of_unknown hw hunknown, rfl, rfl, .of_withFields rfl⟩,
    fun s t f h hf hkind => ?_⟩
  obtain ⟨_, rfl⟩ | ⟨w, k, hw, rfl, hcause⟩ := engineStep_failure_cases h hf
  · obtain rfl := Option.some.inj hf
    cases hkind
  · obtain rfl := Option.some.inj hf
    obtain rfl : k = .unknownInstruction := hkind
    refine ⟨w, hw, ?_⟩
    obtain ⟨_, hunknown⟩ | ⟨i, hd, hraises⟩ := hcause
    · exact .inl hunknown
    · obtain ⟨hb, nnn, rfl⟩ := hraises.sys_of_unknownInstruction
      exact .inr ⟨hb, decodeWord_eq_sys_iff.mp ⟨nnn, hd⟩⟩

/-- Settles O8: neither the fetch, nor the decoder, nor an instruction (`Raises`) has this kind. -/
theorem noRegisterIndexIsOutOfRange : Obligations.NoRegisterIndexIsOutOfRange := by
  unfold Obligations.NoRegisterIndexIsOutOfRange
  intro s t f h hf
  obtain ⟨_, rfl⟩ | ⟨w, k, _, rfl, hcause⟩ := engineStep_failure_cases h hf
  · obtain rfl := Option.some.inj hf
    exact fun hkind => nomatch hkind
  · obtain rfl := Option.some.inj hf
    obtain ⟨rfl, _⟩ | ⟨i, _, hraises⟩ := hcause
    · exact fun hkind => nomatch hkind
    · exact hraises.kind_ne_registerIndexOutOfRange

/-- Settles O9, by `engineStep_failure_cases`. The absence of partial effects is decision D16 (log entry 13), the reported
address and word are D20 and D21 (log entries 14 and 15). -/
theorem failedStepChangesOnlyPc : Obligations.FailedStepChangesOnlyPc := by
  unfold Obligations.FailedStepChangesOnlyPc
  intro s t f h hf
  obtain ⟨hnone, rfl⟩ | ⟨w, k, hw, rfl, _⟩ := engineStep_failure_cases h hf
  · obtain rfl := Option.some.inj hf
    exact ⟨.of_withFields rfl, rfl, fun w hw => (nomatch hnone.symm.trans hw), fun _ => ⟨rfl, rfl, rfl⟩⟩
  · obtain rfl := Option.some.inj hf
    exact ⟨.of_withFields rfl, rfl, fun w' hw' => ⟨rfl, Option.some.inj (hw.symm.trans hw')⟩,
      fun hnone => (nomatch hnone.symm.trans hw)⟩

/-- Settles O42: the rejected load only answers (`State.loadProgram_of_gt`), and no drained step and no other message gives
that answer. -/
theorem loadProgramRejected : Obligations.LoadProgramRejected := by
  unfold Obligations.LoadProgramRejected
  refine ⟨fun bytes rest s hnext hlen => ?_, fun s t h hr => ?_⟩
  · obtain ⟨level, hstep, hwrites⟩ := hnext.step_writes (changed := [.outq])
      (congrArg Host.Outcome.next (State.loadProgram_of_gt _ hlen)) (.of_withFields rfl)
    exact ⟨_, hstep, rfl, rfl, hwrites⟩
  · obtain ⟨_, u, hu, rfl⟩ | ⟨_, _, m, rest, u, hq, hu, rfl⟩ | ⟨_, _, _, rfl⟩ := step_cases h
    · rw [State.finishMessage_outq] at hr
      exact .inl (engineStep_outq hu ▸ State.mem_outq_of_accountDrained hr)
    · rw [State.finishMessage_outq] at hr
      by_cases hm : ∃ bytes, m = .command (.loadProgram bytes)
      · obtain ⟨bytes, rfl⟩ := hm
        obtain rfl := Host.Outcome.next.inj hu
        exact (State.mem_outq_of_loadProgram hr).imp_right fun hlen => ⟨bytes, rest, hq, hlen⟩
      · exact .inl (handle_mem_outq (s := { s with inq := rest }) (not_exists.mp hm) hu hr)
    · exact .inl hr

end Sys2Proof.Machine
end
